-- ==== Sys2Proof/Word.lean ====
section
/-! DEFINITION. The word types of the T432 and the numbers that name its parts. -/

namespace Sys2Proof

/-- One byte on the link (R172). -/
abbrev Byte := BitVec 8

/-- A 16-bit value: a payload word or a session tag (R43, R124). -/
abbrev Word := BitVec 16

/-- A value of the Time Base, a 32-bit counter of microseconds (R170). -/
abbrev Time := BitVec 32

/-- A master port, 0 to 3. -/
abbrev Port := Fin 4

/-- A set of ports, bit n standing for port n (the sets of ports of section 10.5). -/
abbrev PortSet := BitVec 4

/-- A source id, 0 to 47: 0 to 31 line sources, 32 to 47 soft sources (R1). -/
abbrev SourceId := Fin 48

/-- An input line, 0 to 31 (R28). -/
abbrev LineId := Fin 32

/-- A slot of the Offer List, 0 to 15 (R81). -/
abbrev SlotId := Fin 16

/-- A service slot of one Delivery Unit, 0 to 3 (R105). -/
abbrev ServiceSlotId := Fin 4

/-- A priority, 0 (highest) to 7 (R1). -/
abbrev Priority := Fin 8

end Sys2Proof
end

