-- ==== Sys2Proof/Config.lean ====
section
/-! DEFINITION. What the manual fixes for every part, and the two values it leaves open. -/

namespace Sys2Proof.Config

/-- Whether the answer of the n-th answered frame of a port was ready when its response phase began (R174).
It depends on the master's clock, which the model does not hold: a free value, nothing constrains it. -/
opaque answerReady : Nat → Nat → Bool

/-- Whether a placement that replaces a stale entry takes the freed entry ahead of the placements that were owed before
it. R65 says that it is admitted at once and that both orders of the two requests end alike, which cannot both hold then:
a free value, nothing constrains it (log 9). -/
opaque replacementFirst : Bool

/-- Delivery entries of one Delivery Queue (R59). -/
def queueCapacity : Nat := 16

/-- Word cells of the Payload Pool (R43). -/
def poolCells : Nat := 64

/-- Numbers that a revoked list holds (R112). -/
def revokedCapacity : Nat := 4

/-- The offer window after power-up and chip reset, in ms (R156). -/
def resetWindow : Byte := 20#8

/-- The largest service limit, in ms (R108). -/
def maxLimit : Nat := 4095

/-- The field value that names no source and no port (section Conventions of 00_scope). -/
def noneByte : Byte := 63#8

/-- The port argument of SEIZE that names none (R162). -/
def seizeNone : Byte := 0xFF#8

/-- The vendor code, 4244h (R171). -/
def vendorCode : Word := 0x4244#16

/-- The part code, 0432h (R171). -/
def partCode : Word := 0x0432#16

/-- The revision of the parts the manual describes (R171). -/
def revision : Byte := 1#8

/-- The CRC's generator without its top term, 2Fh (R173). -/
def crcPolynomial : Byte := 0x2F#8

/-- The CRC register's starting value (R173). -/
def crcStart : Byte := 0xFF#8

/-- The byte of the not-ready fill (R174). -/
def fillByte : Byte := 0xFF#8

end Sys2Proof.Config
end

