-- ==== Sys2Proof/Syntax.lean ====
section
/-! DEFINITION. The commands of the T432: one constructor of Instr for each row of spec/opcode_table.json. A row is a
step of the part: an event at a pin, a tick, a command frame of a master, or the arrival of a message that one block
sent to another. -/

namespace Sys2Proof

/-- How a copy is delivered: a batch's form (R5) and the kind of a delivery in service (R105). -/
inductive Form where
  | direct | shared | broadcast | fallback
deriving DecidableEq, Repr

/-- The kind of a delivery entry or owed placement; an OFFER carries its round (R58). -/
inductive EntryKind where
  | direct | broadcast | fallback
  | offer (round : Nat)
deriving DecidableEq, Repr

/-- The identity of an entry or placement: source, kind with its round, and batch reference (R58). -/
structure EntryId where
  source : SourceId
  kind : EntryKind
  ref : Nat
deriving DecidableEq, Repr

/-- The payload of a soft batch (R5). -/
structure Payload where
  word : Word
  raiser : Port
deriving DecidableEq, Repr

/-- The batch's values that travel with a placement (R58); no payload for a line source. -/
structure DeliveryFields where
  count : Nat
  overrun : Bool
  stamp : Time
  payload : Option Payload
deriving DecidableEq, Repr

/-- A copy on its way to, or held by, a Delivery Unit (R58). -/
structure Placement where
  id : EntryId
  priority : Priority
  fields : DeliveryFields
deriving DecidableEq, Repr

/-- The kind of a slot request; a RE-OFFER names its batch (R83). -/
inductive RequestKind where
  | first
  | reOffer (ref : Nat)
deriving DecidableEq, Repr

/-- Why an offer closed by expiry (R96, R100). -/
inductive ExpiryCause where
  | deadline | lastCandidateLost
deriving DecidableEq, Repr

/-- The five kinds of notice (R76). -/
inductive NoticeKind where
  | expired | revoked | seized | table | peer
deriving DecidableEq, Repr

/-- The subject that a notice record shows: a source, a port, or none (63) (R76). -/
inductive Subject where
  | source (i : SourceId)
  | port (p : Port)
  | none
deriving DecidableEq, Repr

/-- The six bytes of a route block, as WRITE_ROUTE carries them (R183). -/
structure RouteBlock where
  mode : Byte
  targets : Byte
  fallback : Byte
  priority : Byte
  kindA : Byte   -- trigger or depth limit
  kindB : Byte   -- settle or raisers
deriving DecidableEq, Repr

/-- The part's steps. In the message rows `i` is the source, `p` the port that the message concerns, `ref` a batch
reference and `req` a request reference; in the command rows `p` is the port whose master sends the frame and the
remaining operands are the frame's argument bytes. -/
inductive Instr where
  -- pins and power
  | powerUp (ssel : BitVec 3) (lin : BitVec 32) (crst : Bool) (prst : PortSet)
  | crstAssert
  | crstRelease (ssel : BitVec 3)
  | pnrstAssert (p : Port)
  | pnrstRelease (p : Port) (chipSelected : Bool)
  | rawLevelChange (l : LineId) (high : Bool)
  -- Line Qualifier
  | settleExpiry (l : LineId)
  | enableReport (l : LineId)
  | disableReport (l : LineId)
  | completionReport (l : LineId)
  -- Source Table
  | occurrenceReport (l : LineId)
  | admittedReport (i : SourceId) (p : Port) (ref : Nat)
  | takenReport (i : SourceId) (p : Port) (ref : Nat) (seq : Byte)
  | doneReport (i : SourceId) (p : Port) (ref : Nat)
  | withdrawalReport (i : SourceId) (p : Port) (ref : Nat)
  | revokedReport (i : SourceId) (p : Port) (ref : Nat) (kind : Form)
  | claimGranted (i : SourceId) (ref : Nat) (p : Port)
  | candidateLost (i : SourceId) (ref : Nat) (p : Port)
  | expiryReport (i : SourceId) (ref : Nat) (converted : Bool) (cause : ExpiryCause)
  | slotGrant (k : SlotId) (i : SourceId) (kind : RequestKind) (req : Nat)
  | attachReport (p : Port)
  | runReport
  -- Offer Arbiter
  | slotRequest (i : SourceId) (kind : RequestKind) (req : Nat) (priority : Priority) (stamp : Time)
  | slotRequestCancel (i : SourceId) (req : Nat)
  | grantOpen (k : SlotId) (i : SourceId) (ref : Nat) (priority : Priority) (candidates : PortSet)
      (excluded : PortSet) (fields : DeliveryFields)
  | grantDecline (k : SlotId)
  | offerAdmissionReport (i : SourceId) (p : Port) (round : Nat)
  | claim (p : Port) (i : SourceId) (ref : Nat) (round : Nat)
  | candidateLoss (i : SourceId) (ref : Nat) (round : Nat) (p : Port)
  | closeRequest (i : SourceId) (ref : Nat)
  | offerExpiry (k : SlotId)
  -- Delivery Units
  | placement (p : Port) (e : Placement)
  | withdrawalRequest (p : Port) (id : EntryId)
  | noticePosting (p : Port) (kind : NoticeKind) (subject : Subject)
  | removalRequest (p : Port) (i : SourceId) (ref : Nat)
  | claimAnswer (p : Port) (i : SourceId) (ref : Nat) (round : Nat) (granted : Bool)
  | serviceDeadlineExpiry (p : Port) (k : ServiceSlotId)
  -- command frames
  | status (p : Port)
  | attach (p : Port) (tag : Word)
  | detach (p : Port)
  | repeatLast (p : Port)
  | peek (p : Port)
  | take (p : Port)
  | doneSeq (p : Port) (seq : Byte)
  | hold (p : Port)
  | resume (p : Port)
  | setMask (p : Port) (mask : Byte)
  | setGate (p : Port) (mode : Byte)
  | setLimit (p : Port) (ms : Word)
  | readSlots (p : Port)
  | raiseWord (p : Port) (source : Byte) (word : Word)
  | readSource (p : Port) (source : Byte)
  | writeRoute (p : Port) (source : Byte) (block : RouteBlock)
  | enable (p : Port) (source : Byte)
  | disable (p : Port) (source : Byte)
  | adopt (p : Port) (source : Byte)
  | release (p : Port) (source : Byte)
  | lock (p : Port) (source : Byte)
  | run (p : Port)
  | stop (p : Port)
  | evict (p : Port) (port : Byte)
  | seize (p : Port) (source : Byte) (port : Byte)
  | tableReset (p : Port)
  | setWindow (p : Port) (ms : Byte)
  | readLines (p : Port)
  | readTime (p : Port)
  | readOffer (p : Port) (slot : Byte)
  | readIdent (p : Port)
  -- the link and the Time Base
  | frameError (p : Port) (code : Byte) (args : List Byte) (check : Byte)
  | badCommand (p : Port) (code : Byte)
  | earlyChipSelectRelease (p : Port)
  | timeBaseTick
deriving DecidableEq, Repr

end Sys2Proof
end

