-- ==== Sys2Proof/Machine/State.lean ====
section
/-! DEFINITION. The state of the T432, block by block, and the machine right after reset. -/

namespace Sys2Proof.Machine

/-! ### Source Table records -/

/-- A source's routing mode (R1). -/
inductive Mode where
  | direct | shared | broadcast
deriving DecidableEq, Repr

/-- A line source's trigger (R1). -/
inductive Trigger where
  | rise | fall | both | high | low
deriving DecidableEq, Repr

/-- The routing fields that one kind of source carries and the other does not (R1). -/
inductive KindFields where
  | line (trigger : Trigger) (settle : Fin 16)
  | soft (depth : Nat) (raisers : PortSet)
deriving DecidableEq, Repr

/-- The routing fields of a source (R1). -/
structure Routing where
  mode : Mode
  targets : PortSet
  fallback : Option Port
  priority : Priority
  kind : KindFields
deriving DecidableEq, Repr

/-- The five source states (R7). -/
inductive SourceState where
  | off | idle | waiting | active | draining
deriving DecidableEq, Repr

/-- How a source's most recent batch ended or was sent back (R155). -/
inductive LastOutcome where
  | noOutcome | delivered | expired | discarded | revoked | returned
deriving DecidableEq, Repr

/-- The state of one port's copy of a batch (R6). -/
inductive CopyState where
  | noCopy | owed | queued | offered | inService | done
deriving DecidableEq, Repr

/-- A batch (R5). -/
structure Batch where
  ref : Nat
  count : Nat
  overrun : Bool
  stamp : Time
  payload : Option Payload
  form : Form
  priority : Priority
  copies : Vector CopyState 4
  excluded : PortSet
  offer : Option SlotId
deriving DecidableEq, Repr

/-- An entry of a payload list (R43). -/
structure PoolWord where
  word : Word
  raiser : Port
  stamp : Time
deriving DecidableEq, Repr

/-- A source record (R1, R2), with the soft source's payload list (R43) and the next references to give. -/
structure Source where
  routing : Routing
  owner : Option Port
  lock : Bool
  enable : Bool
  state : SourceState
  pending : Nat
  overrun : Bool
  firstStamp : Option Time
  batch : Option Batch
  lastOutcome : LastOutcome
  slotRequest : Option Nat
  words : List PoolWord
  nextRef : Nat
  nextRequest : Nat
deriving DecidableEq, Repr

/-! ### Line Qualifier -/

/-- The state of one line (R28); `timer` holds the deadline while the settle timer is timing. -/
structure Line where
  raw : Bool
  settled : Bool
  timer : Option Time
  image : Bool
deriving DecidableEq, Repr

/-! ### Offer Arbiter -/

/-- The record of an open offer (R82). -/
structure Offer where
  source : SourceId
  ref : Nat
  round : Nat
  priority : Priority
  candidates : PortSet
  holders : PortSet
  owed : PortSet
  opened : Time
  deadline : Time
deriving DecidableEq, Repr

/-- A slot of the Offer List (R81); what a RESERVED slot holds is R82's. -/
inductive OfferSlot where
  | free
  | reserved (source : SourceId) (kind : RequestKind) (req : Nat)
  | opened (o : Offer)
deriving DecidableEq, Repr

/-- A slot request waiting in the request list (R83); the list's order is the arrival order. -/
structure Request where
  source : SourceId
  kind : RequestKind
  req : Nat
  priority : Priority
  stamp : Time
deriving DecidableEq, Repr

/-! ### Delivery Units -/

/-- An owed placement: the placement and its owed-since (R58). -/
structure Owed where
  entry : Placement
  since : Time
deriving DecidableEq, Repr

/-- An occupied notice slot (R56). -/
structure Notice where
  kind : NoticeKind
  count : Nat
  subject : Subject
  stamp : Time
deriving DecidableEq, Repr

/-- A claim in flight (R56): the claimed entry, whose identity names the claim and whose other fields the record of the
GRANT answer shows (log 12), its reserved slot and its two marks. -/
structure Claim where
  entry : Placement
  slot : ServiceSlotId
  removal : Bool
  ended : Bool
deriving DecidableEq, Repr

/-- A delivery in service (R105). -/
structure ServiceRecord where
  seq : Byte
  source : SourceId
  kind : Form
  ref : Nat
  taken : Time
  deadline : Option Time
deriving DecidableEq, Repr

/-- A service slot (R105). -/
inductive ServiceSlot where
  | free
  | reserved (id : EntryId)
  | held (r : ServiceRecord)
deriving DecidableEq, Repr

/-- A Delivery Unit (R56, R105, R106, R112). `entries` is in admission order and `notices` in the order of first
postings; the queue order of R60 is computed from them. -/
structure DeliveryUnit where
  entries : List Placement
  owed : List Owed
  notices : List Notice
  claims : List Claim
  seq : Byte
  mask : Byte
  gateOpen : Bool
  gateOnTake : Bool
  slots : Vector ServiceSlot 4
  revoked : List Byte
  limit : Word
deriving DecidableEq, Repr

/-! ### Port Interfaces -/

/-- The state of a port (R124). -/
inductive PortState where
  | detached | attached | evicted
deriving DecidableEq, Repr

/-- The response statuses (R185). -/
inductive Status where
  | ok | empty | lost | slotsFull | notHeld | late | notOwner | locked | busy | badArg | incomplete
  | notAttached | already | notSteering | full | poolEmpty | disabled | notRaiser | evicted | badCommand
  | frameError | owned
deriving DecidableEq, Repr

/-- The last-response store's content (R178). -/
structure StoredResponse where
  code : Byte
  args : List Byte
  status : Status
  data : List Byte
deriving DecidableEq, Repr

/-- A frame that is being answered: the bytes of its command phase, the bytes driven in the response phase, whether the
answer is still awaited, and the number of bytes clocked since the command phase was complete (R172, R174). -/
structure Frame where
  command : List Byte
  response : List Byte
  awaiting : Bool
  clocked : Nat
deriving DecidableEq, Repr

/-- The bytes of one frame being assembled or answered (R124). -/
inductive LinkFrame where
  | assembling (received : List Byte)
  | answering (f : Frame)
deriving DecidableEq, Repr

/-- What a master does on its link, byte by byte (R172): it asserts PnCS, clocks a byte, releases PnCS. The table has no
row for the first two; these wait in `State.link` (log 6). -/
inductive LinkEvent where
  | select (p : Port)
  | byte (p : Port) (b : Byte)
  | deselect (p : Port)
deriving DecidableEq, Repr

/-- A Port Interface's record (R124) with what R174 and R137 have it remember. -/
structure PortRecord where
  pstate : PortState
  tag : Word
  store : Option StoredResponse
  frame : Option LinkFrame
  running : Option EntryId
  held : List Instr
  inReset : Bool
  csIgnored : Bool
  frames : Nat
deriving DecidableEq, Repr

/-! ### Control Unit -/

/-- The run state (R156). -/
inductive RunState where
  | stopped | running
deriving DecidableEq, Repr

/-- The reset cause (R156). -/
inductive ResetCause where
  | power | chip
deriving DecidableEq, Repr

/-- The input pins whose levels the part samples. -/
structure Pins where
  lin : BitVec 32
  ssel : BitVec 3
deriving DecidableEq, Repr

/-! ### The part -/

/-- The whole part. `attn` is the set of ports whose ATTN is asserted; `inFlight` holds the messages on their way between
blocks, oldest first; `handed` the commands a Port Interface has released to their block after a wait (R174); `link` what
the masters have still to do on their links, and `pending` the queue of commands that wait outside. `released` is set only
while a step runs a command of `handed`. -/
structure State where
  pins : Pins
  crst : Bool
  powerHold : Bool
  time : Time
  steering : Option Port
  runState : RunState
  window : Byte
  cause : ResetCause
  lines : Vector Line 32
  sources : Vector Source 48
  poolFree : Nat
  offers : Vector OfferSlot 16
  requests : List Request
  units : Vector DeliveryUnit 4
  ports : Vector PortRecord 4
  attn : PortSet
  inFlight : List Instr
  handed : List Instr
  released : Bool
  link : List LinkEvent
  pending : List Instr
deriving DecidableEq, Repr

/-- No command of the part ends in a fault: the part answers what it will not do with a status (R185). -/
inductive Fault where
deriving DecidableEq, Repr

/-- Why a command has no meaning in the model. -/
inductive Refusal where
  /-- Raised by exec's arm of a command that has no meaning yet; safe, because the model stops. -/
  | notModelled (mnemonic : String)
deriving DecidableEq, Repr

/-! ### Power-up values -/

/-- The power-up values of the routing fields of a line source (R1). -/
def lineRouting : Routing :=
  { mode := .direct, targets := 0#4, fallback := none, priority := 4, kind := .line .rise 2 }

/-- The power-up values of the routing fields of a soft source (R1, R42). -/
def softRouting : Routing :=
  { mode := .direct, targets := 0#4, fallback := none, priority := 4, kind := .soft 4 0xF#4 }

/-- A record with the given routing and every other field at its power-up value (R2); the references still to be given
are the arguments. -/
def freshSource (r : Routing) (nextRef nextRequest : Nat) : Source :=
  { routing := r, owner := none, lock := false, enable := false, state := .off, pending := 0, overrun := false,
    firstStamp := none, batch := none, lastOutcome := .noOutcome, slotRequest := none, words := [],
    nextRef := nextRef, nextRequest := nextRequest }

/-- The power-up routing of source `i` (R1). -/
def powerUpRouting (i : SourceId) : Routing := if i.val < 32 then lineRouting else softRouting

/-- Every record at power-up (R1, R2). -/
def powerUpSources : Vector Source 48 :=
  Vector.replicate 32 (freshSource lineRouting 0 0) ++ Vector.replicate 16 (freshSource softRouting 0 0)

/-- A line whose pin is at the given level, as power-up ends (R38). -/
def powerUpLine (high : Bool) : Line := { raw := high, settled := high, timer := none, image := false }

/-- A Delivery Unit at power-up (R56, R106). -/
def powerUpUnit : DeliveryUnit :=
  { entries := [], owed := [], notices := [], claims := [], seq := 0#8, mask := 0xFF#8, gateOpen := true,
    gateOnTake := false, slots := Vector.replicate 4 .free, revoked := [], limit := 0#16 }

/-- A Port Interface at power-up (R124), its PnRST at the given level. -/
def powerUpPort (inReset : Bool) : PortRecord :=
  { pstate := .detached, tag := 0#16, store := none, frame := none, running := none, held := [],
    inReset := inReset, csIgnored := false, frames := 0 }

/-- The machine right after power-up (R167), on a board whose straps are 0, whose lines are low and whose reset pins are
released (DESIGN CHOICE, log 3): port 0 is then the steering port and the run state is STOPPED (R156, R157). -/
def State.reset : State :=
  { pins := { lin := 0#32, ssel := 0#3 }, crst := false, powerHold := false, time := 0#32, steering := some 0,
    runState := .stopped, window := Config.resetWindow, cause := .power,
    lines := Vector.replicate 32 (powerUpLine false), sources := powerUpSources, poolFree := Config.poolCells,
    offers := Vector.replicate 16 .free, requests := [], units := Vector.replicate 4 powerUpUnit,
    ports := Vector.replicate 4 (powerUpPort false), attn := 0#4, inFlight := [], handed := [], released := false,
    link := [], pending := [] }

end Sys2Proof.Machine
end

