-- ==== Sys2Proof/Machine/Access.lean ====
section
/-! DEFINITION. Reading and replacing one record of the state, and sending messages. Every meaning goes through these. -/

namespace Sys2Proof.Machine

/-- Source record `i`. -/
def State.src (s : State) (i : SourceId) : Source := s.sources[i.val]
/-- The state with source record `i` replaced. -/
def State.setSrc (s : State) (i : SourceId) (r : Source) : State := { s with sources := s.sources.set i.val r }

/-- Line `l`. -/
def State.line (s : State) (l : LineId) : Line := s.lines[l.val]
/-- The state with line `l` replaced. -/
def State.setLine (s : State) (l : LineId) (x : Line) : State := { s with lines := s.lines.set l.val x }

/-- Offer List slot `k`. -/
def State.offer (s : State) (k : SlotId) : OfferSlot := s.offers[k.val]
/-- The state with Offer List slot `k` replaced. -/
def State.setOffer (s : State) (k : SlotId) (x : OfferSlot) : State := { s with offers := s.offers.set k.val x }

/-- The Delivery Unit of port `p`. -/
def State.unit (s : State) (p : Port) : DeliveryUnit := s.units[p.val]
/-- The state with the Delivery Unit of port `p` replaced. -/
def State.setUnit (s : State) (p : Port) (d : DeliveryUnit) : State := { s with units := s.units.set p.val d }

/-- The record of port `p`. -/
def State.port (s : State) (p : Port) : PortRecord := s.ports[p.val]
/-- The state with the record of port `p` replaced. -/
def State.setPort (s : State) (p : Port) (q : PortRecord) : State := { s with ports := s.ports.set p.val q }

/-- The state after one block has sent messages to others: they join those on their way, in the order sent. -/
def State.send (s : State) (ms : List Instr) : State := { s with inFlight := s.inFlight ++ ms }

/-- The state once a message has arrived: it is no longer on its way. A message that was not on its way (the sender of
commands made it) leaves the messages on their way as they are (log 1). -/
def State.arrive (s : State) (m : Instr) : State := { s with inFlight := s.inFlight.erase m }

/-- The copy of a batch at port `p`. -/
def Batch.copy (b : Batch) (p : Port) : CopyState := b.copies[p.val]
/-- The batch with its copy at port `p` replaced. -/
def Batch.setCopy (b : Batch) (p : Port) (c : CopyState) : Batch := { b with copies := b.copies.set p.val c }

/-- Service slot `k` of a Delivery Unit. -/
def DeliveryUnit.slot (d : DeliveryUnit) (k : ServiceSlotId) : ServiceSlot := d.slots[k.val]
/-- The Delivery Unit with service slot `k` replaced. -/
def DeliveryUnit.setSlot (d : DeliveryUnit) (k : ServiceSlotId) (x : ServiceSlot) : DeliveryUnit :=
  { d with slots := d.slots.set k.val x }

end Sys2Proof.Machine
end

