-- ==== Sys2Proof/Machine/Bits.lean ====
section
/-! DEFINITION. Sets of ports, bytes of the link, the check byte and the arithmetic of times. -/

namespace Sys2Proof.Machine

/-! ### Sets of ports and priorities -/

/-- Port `p` is in the set. -/
def portIn (p : Port) (S : PortSet) : Bool := S.getLsbD p.val

/-- The set of the one port `p`. -/
def onePort (p : Port) : PortSet := 1#4 <<< p.val

/-- The set with port `p` added. -/
def withPort (S : PortSet) (p : Port) : PortSet := S ||| onePort p

/-- The set with port `p` removed. -/
def withoutPort (S : PortSet) (p : Port) : PortSet := S &&& ~~~ onePort p

/-- The four ports, ascending. -/
def allPorts : List Port := [0, 1, 2, 3]

/-- The members of a set, ascending. -/
def portsOf (S : PortSet) : List Port := allPorts.filter (portIn · S)

/-- The set of the ports that satisfy a test. -/
def portsWhere (test : Port → Bool) : PortSet :=
  allPorts.foldl (fun S p => if test p then withPort S p else S) 0#4

/-- The one target of a DIRECT source: the lowest member of the set (R142 gives such a set exactly one). -/
def lowestPort (S : PortSet) : Option Port := (portsOf S).head?

/-- The priority is in the level mask, bit n standing for priority n (R61, R182). -/
def priorityIn (q : Priority) (mask : Byte) : Bool := mask.getLsbD q.val

/-! ### Times -/

/-- The age of a stamp: the present counter value less the stamp, modulo 2^32 (R170). -/
def age (now stamp : Time) : Nat := (now - stamp).toNat

/-- The Time Base has reached the deadline. Deadlines lie less than half the counter's cycle ahead when they are set
(R170), so a deadline that still lies ahead shows an age of at least half the cycle. -/
def reached (now deadline : Time) : Bool := age now deadline < 2 ^ 31

/-- The stamp plus a number of microseconds, modulo 2^32 (R170). -/
def after (stamp : Time) (micros : Nat) : Time := stamp + BitVec.ofNat 32 micros

/-! ### Bytes -/

/-- The byte that holds a small number. -/
def byteOf (n : Nat) : Byte := BitVec.ofNat 8 n

/-- A port field: the port, or 63 for none (section 10.5). -/
def portByte : Option Port → Byte
  | some p => byteOf p.val
  | none => Config.noneByte

/-- A set of ports as a byte (section 10.5). -/
def setByte (S : PortSet) : Byte := S.zeroExtend 8

/-- Two bytes, the most significant first (R181). -/
def bytes2 (w : Word) : List Byte := [w.extractLsb' 8 8, w.extractLsb' 0 8]

/-- Four bytes, the most significant first (R181). -/
def bytes4 (w : BitVec 32) : List Byte :=
  [w.extractLsb' 24 8, w.extractLsb' 16 8, w.extractLsb' 8 8, w.extractLsb' 0 8]

/-- The two-byte value of two bytes, the most significant first (R181). -/
def wordOf (hi lo : Byte) : Word := hi ++ lo

/-- `n` bytes of 00h. -/
def zeros (n : Nat) : List Byte := List.replicate n 0#8

/-- The list padded with 00h to `n` bytes. -/
def padTo (n : Nat) (l : List Byte) : List Byte := l ++ zeros (n - l.length)

/-- A flag as a bit of a byte. -/
def flagBit (b : Bool) (bit : Nat) : Byte := if b then 1#8 <<< bit else 0#8

/-! ### The check byte (R173) -/

/-- One shift of the CRC register. -/
def crcShift (r : Byte) : Byte := if r.msb then (r <<< 1) ^^^ Config.crcPolynomial else r <<< 1

/-- The CRC register after one byte: combined with the byte, then shifted eight times. -/
def crcByte (r b : Byte) : Byte := (List.range 8).foldl (fun x _ => crcShift x) (r ^^^ b)

/-- The check byte of a phase. -/
def checkByte (bytes : List Byte) : Byte := bytes.foldl crcByte Config.crcStart

end Sys2Proof.Machine
end

