-- ==== Sys2Proof/Machine/Operands.lean ====
section
/-! DEFINITION. How the part reads the argument bytes of its commands, and the codes and byte layouts of section 10.5. -/

namespace Sys2Proof.Machine

/-! ### Arguments -/

/-- The source that a source id byte names: 0 to 47 (R140, step 2). -/
def sourceOf (b : Byte) : Option SourceId := if h : b.toNat < 48 then some ⟨b.toNat, h⟩ else none

/-- The port that a port byte names: 0 to 3. -/
def portOf (b : Byte) : Option Port := if h : b.toNat < 4 then some ⟨b.toNat, h⟩ else none

/-- A port field of a route block: a port, or 63 for none; other values name nothing (R183). -/
def optPortOf (b : Byte) : Option (Option Port) :=
  if b = Config.noneByte then some none else (portOf b).map some

/-- The port byte of SEIZE: a port, or FFh for none; other values name nothing (R162). -/
def seizePortOf (b : Byte) : Option (Option Port) :=
  if b = Config.seizeNone then some none else (portOf b).map some

/-- The offer slot that a slot byte names: 0 to 15 (R104). -/
def slotOf (b : Byte) : Option SlotId := if h : b.toNat < 16 then some ⟨b.toNat, h⟩ else none

/-- A set of ports in a byte: bits 7 to 4 are 0 (section 10.5). -/
def setOf (b : Byte) : Option PortSet := if b.toNat < 16 then some (b.setWidth 4) else none

/-- A priority byte: 0 to 7 (R183). -/
def priorityOf (b : Byte) : Option Priority := if h : b.toNat < 8 then some ⟨b.toNat, h⟩ else none

/-- The record that line `l` feeds (R1). -/
def sourceOfLine (l : LineId) : SourceId := ⟨l.val, by omega⟩

/-- The line that feeds a source; none for a soft source (R1). -/
def lineOf (i : SourceId) : Option LineId := if h : i.val < 32 then some ⟨i.val, h⟩ else none

/-- A soft source, 32 to 47 (R1). -/
def isSoft (i : SourceId) : Bool := 32 ≤ i.val

/-! ### Codes (R182 to R185) -/

/-- The status codes (R185). -/
def statusCode : Status → Byte
  | .ok => 0x00#8 | .empty => 0x01#8 | .lost => 0x02#8 | .slotsFull => 0x03#8 | .notHeld => 0x04#8 | .late => 0x05#8
  | .notOwner => 0x06#8 | .locked => 0x07#8 | .busy => 0x08#8 | .badArg => 0x09#8 | .incomplete => 0x0A#8
  | .notAttached => 0x0B#8 | .already => 0x0C#8 | .notSteering => 0x0D#8 | .full => 0x0E#8 | .poolEmpty => 0x0F#8
  | .disabled => 0x10#8 | .notRaiser => 0x11#8 | .evicted => 0x12#8 | .badCommand => 0x13#8 | .frameError => 0x14#8
  | .owned => 0x15#8

/-- The codes of a batch's form and of a service slot's kind, the same as a record's kind codes (R182). -/
def formCode : Form → Byte
  | .direct => 1#8 | .shared => 2#8 | .broadcast => 3#8 | .fallback => 4#8

/-- The kind codes of notices (R182). -/
def noticeCode : NoticeKind → Byte
  | .expired => 8#8 | .revoked => 9#8 | .seized => 10#8 | .table => 11#8 | .peer => 12#8

/-- The kind code that PEEK shows for a delivery entry (R68, R182). -/
def entryKindCode : EntryKind → Byte
  | .direct => 1#8 | .broadcast => 3#8 | .fallback => 4#8 | .offer _ => 5#8

/-- The mode codes (R183). -/
def modeCode : Mode → Byte
  | .direct => 1#8 | .shared => 2#8 | .broadcast => 3#8

/-- The trigger codes (R183). -/
def triggerCode : Trigger → Byte
  | .rise => 0#8 | .fall => 1#8 | .both => 2#8 | .high => 3#8 | .low => 4#8

/-- The port state codes (R184). -/
def portStateCode : PortState → Byte
  | .detached => 0#8 | .attached => 1#8 | .evicted => 2#8

/-- The run state codes (R184). -/
def runStateCode : RunState → Byte
  | .stopped => 0#8 | .running => 1#8

/-- The reset cause codes (R184). -/
def causeCode : ResetCause → Byte
  | .power => 0#8 | .chip => 1#8

/-- The source state codes (R184). -/
def sourceStateCode : SourceState → Byte
  | .off => 0#8 | .idle => 1#8 | .waiting => 2#8 | .active => 3#8 | .draining => 4#8

/-- The last outcome codes (R184). -/
def outcomeCode : LastOutcome → Byte
  | .noOutcome => 0#8 | .delivered => 1#8 | .expired => 2#8 | .discarded => 3#8 | .revoked => 4#8 | .returned => 5#8

/-- The copy state codes (R184). -/
def copyCode : CopyState → Byte
  | .noCopy => 0#8 | .owed => 1#8 | .queued => 2#8 | .offered => 3#8 | .inService => 4#8 | .done => 5#8

/-- The source field of a notice record: the subject (R77). -/
def subjectByte : Subject → Byte
  | .source i => byteOf i.val
  | .port p => byteOf p.val
  | .none => Config.noneByte

/-! ### The route block (R142, R183) -/

/-- The mode that a byte encodes. -/
def modeOf (b : Byte) : Option Mode :=
  match b.toNat with
  | 1 => some .direct | 2 => some .shared | 3 => some .broadcast | _ => none

/-- The trigger that a byte encodes. -/
def triggerOf (b : Byte) : Option Trigger :=
  match b.toNat with
  | 0 => some .rise | 1 => some .fall | 2 => some .both | 3 => some .high | 4 => some .low | _ => none

/-- Bytes 4 and 5 of a line source's block: trigger and settle. -/
def lineFieldsOf (a b : Byte) : Option KindFields :=
  match triggerOf a with
  | none => none
  | some t => if h : b.toNat < 16 then some (.line t ⟨b.toNat, h⟩) else none

/-- Bytes 4 and 5 of a soft source's block: depth limit and raisers. -/
def softFieldsOf (a b : Byte) : Option KindFields :=
  match setOf b with
  | none => none
  | some raisers => if 1 ≤ a.toNat ∧ a.toNat ≤ 8 then some (.soft a.toNat raisers) else none

/-- The two conditions that join the fields: a DIRECT block names exactly one target, and not as its fallback (R142). -/
def jointlyValid (r : Routing) : Bool :=
  match r.mode with
  | .direct => (portsOf r.targets).length == 1 && (match r.fallback with | some f => !portIn f r.targets | none => true)
  | _ => true

/-- The routing that a route block gives source `i`, if the block is valid (R142). -/
def routingOf (i : SourceId) (b : RouteBlock) : Option Routing :=
  match modeOf b.mode, setOf b.targets, optPortOf b.fallback, priorityOf b.priority,
      (if isSoft i then softFieldsOf b.kindA b.kindB else lineFieldsOf b.kindA b.kindB) with
  | some mode, some targets, some fallback, some priority, some kind =>
    let r : Routing := { mode, targets, fallback, priority, kind }
    if jointlyValid r then some r else none
  | _, _, _, _, _ => none

/-- The route block that reads back a routing (R153, R183). -/
def routeBlock (r : Routing) : RouteBlock :=
  { mode := modeCode r.mode, targets := setByte r.targets, fallback := portByte r.fallback,
    priority := byteOf r.priority.val,
    kindA := (match r.kind with | .line t _ => triggerCode t | .soft d _ => byteOf d),
    kindB := (match r.kind with | .line _ k => byteOf k.val | .soft _ S => setByte S) }

/-- The six bytes of a route block in order (R183). -/
def blockBytes (b : RouteBlock) : List Byte := [b.mode, b.targets, b.fallback, b.priority, b.kindA, b.kindB]

/-! ### Records (R182) -/

/-- The empty record: kind none, the given source field, every other field 0 (R68, R72). -/
def emptyRecord (source : Byte) : List Byte := [0#8, source] ++ zeros 9

/-- The record of a delivery: R69's fields in R182's places. -/
def deliveryRecord (kind : Byte) (source : SourceId) (seq : Byte) (f : DeliveryFields) : List Byte :=
  [kind, byteOf source.val, seq, byteOf f.count,
    flagBit f.overrun 7 ||| (match f.payload with | some w => flagBit true 6 ||| byteOf w.raiser.val | none => 0#8)]
  ++ bytes4 f.stamp ++ bytes2 (match f.payload with | some w => w.word | none => 0#16)

/-- A notice record (R77). -/
def noticeRecord (n : Notice) : List Byte :=
  [noticeCode n.kind, subjectByte n.subject, 0#8, byteOf n.count, 0#8] ++ bytes4 n.stamp ++ bytes2 0#16

end Sys2Proof.Machine
end

