-- ==== Sys2Proof/Machine/Flags.lean ====
section
/-! DEFINITION. The conditions the manual derives from the state: port sets by state, a line's assertion, pending counts,
completion, the queue's order and visibility, attention, and the check of a command against its port's state. -/

namespace Sys2Proof.Machine

/-! ### Ports -/

/-- Port `p` is ATTACHED. -/
def attached (s : State) (p : Port) : Bool := (s.port p).pstate == .attached

/-- The members of a set whose port is ATTACHED. -/
def attachedOf (s : State) (S : PortSet) : PortSet := portsWhere fun p => portIn p S && attached s p

/-- A formation attempt reads port `p` as ATTACHED: it is, and the report of its ATTACH has reached the Source Table (R127,
log 19). -/
def tableSees (s : State) (p : Port) : Bool := attached s p && !s.inFlight.contains (.attachReport p)

/-- The members of a set that a formation attempt reads as ATTACHED (R12 to R14, R127). -/
def seenOf (s : State) (S : PortSet) : PortSet := portsWhere fun p => portIn p S && tableSees s p

/-- The members of a set that are ATTACHED and not excluded: the candidates of an offer (R15, R102). -/
def candidatesOf (s : State) (targets excluded : PortSet) : PortSet :=
  portsWhere fun p => portIn p targets && attached s p && !portIn p excluded

/-- The fallback, if one is named, ATTACHED and not excluded (R20, R96). -/
def usableFallback (s : State) (r : Routing) (excluded : PortSet) : Option Port :=
  r.fallback.filter fun f => attached s f && !portIn f excluded

/-- The fallback, if one is named and a formation attempt reads it as ATTACHED (R12, R14, R127). -/
def seenFallback (s : State) (r : Routing) : Option Port := r.fallback.filter (tableSees s)

/-! ### Lines -/

/-- A settled level asserts its line under a trigger (R29). -/
def assertedLevel (t : Trigger) (settled : Bool) : Bool :=
  match t with
  | .high => settled
  | .low => !settled
  | _ => false

/-- An edge to the given level reports an occurrence under a trigger (R33). -/
def edgeMatches (t : Trigger) (rising : Bool) : Bool :=
  match t with
  | .rise | .high => rising
  | .fall | .low => !rising
  | .both => true

/-- The trigger that the Line Qualifier reads for line `l`. -/
def lineTrigger (s : State) (l : LineId) : Option Trigger :=
  match (s.src (sourceOfLine l)).routing.kind with
  | .line t _ => some t
  | .soft _ _ => none

/-- The settle value that the Line Qualifier reads for line `l`. -/
def lineSettle (s : State) (l : LineId) : Option (Fin 16) :=
  match (s.src (sourceOfLine l)).routing.kind with
  | .line _ k => some k
  | .soft _ _ => none

/-- Line `l` is asserted (R29). -/
def lineAsserted (s : State) (l : LineId) : Bool :=
  match lineTrigger s l with
  | some t => assertedLevel t (s.line l).settled
  | none => false

/-! ### Sources -/

/-- The words of a payload list that no batch holds (R4). -/
def pendingWords (r : Source) : List PoolWord := if r.batch.isSome then r.words.tail else r.words

/-- The pending count: stored for a line source, derived for a soft one (R2, R4). -/
def pendingCount (r : Source) : Nat :=
  match r.routing.kind with
  | .line _ _ => r.pending
  | .soft _ _ => (pendingWords r).length

/-- The first-pending stamp, where it is valid (R2, R4). -/
def firstPending (r : Source) : Option Time :=
  match r.routing.kind with
  | .line _ _ => r.firstStamp
  | .soft _ _ => (pendingWords r).head?.map PoolWord.stamp

/-- The port's copy is not finished and not absent. -/
def outstanding : CopyState → Bool
  | .owed | .queued | .offered | .inService => true
  | .noCopy | .done => false

/-- Some copy of the batch satisfies a test. -/
def someCopy (b : Batch) (test : CopyState → Bool) : Bool := allPorts.any fun p => test (b.copy p)

/-- A batch of an ACTIVE source completes: nothing outstanding, no offer open, no slot request standing, and at least one
copy DONE (R22). -/
def completes (r : Source) (b : Batch) : Bool :=
  !someCopy b outstanding && b.offer.isNone && r.slotRequest.isNone && someCopy b (· == .done)

/-! ### The Delivery Queue -/

/-- A delivery entry is visible (R61). -/
def visible (d : DeliveryUnit) (e : Placement) : Bool := priorityIn e.priority d.mask

/-- The first entry by priority, and among equals the one admitted earlier (R60). -/
def firstByPriority : List Placement → Option Placement
  | [] => none
  | e :: rest =>
    match firstByPriority rest with
    | none => some e
    | some f => if f.priority < e.priority then some f else some e

/-- The eight priorities, the highest first. -/
def allPriorities : List Priority := [0, 1, 2, 3, 4, 5, 6, 7]

/-- The delivery entries in queue order (R60). -/
def queueOrder (entries : List Placement) : List Placement :=
  allPriorities.flatMap fun q => entries.filter (·.priority = q)

/-- An item of a Delivery Queue. -/
inductive QueueItem where
  | notice (n : Notice)
  | entry (e : Placement)
deriving DecidableEq, Repr

/-- The first visible item: notices stand before every delivery entry (R60, R61). -/
def firstVisible (d : DeliveryUnit) : Option QueueItem :=
  match d.notices with
  | n :: _ => some (.notice n)
  | [] => (firstByPriority (d.entries.filter (visible d))).map .entry

/-- The condition of ATTN (R80). -/
def attnCondition (s : State) (p : Port) : Bool :=
  !s.crst && attached s p && (s.unit p).gateOpen && (firstVisible (s.unit p)).isSome

/-- ATTN judged afresh for every port; each line follows at once (R80). Every meaning that can change a part of the condition
ends with it (log 18). -/
def judgeAttn (s : State) : State := { s with attn := portsWhere (attnCondition s) }

/-! ### Commands against the port state (R125) -/

/-- The rows of R125's table. -/
inductive Access where
  | anyState      -- STATUS, REPEAT, and BAD_COMMAND, for which no check is made (R177)
  | attachOnly    -- ATTACH
  | observation   -- READ_LINES, READ_TIME, READ_OFFER, READ_IDENT, READ_SOURCE, READ_SLOTS
  | session       -- every other command
deriving DecidableEq, Repr

/-- The status that refuses a command at the port-state check, if it is refused (R125). -/
def portCheck (a : Access) (ps : PortState) : Option Status :=
  match a, ps with
  | .anyState, _ => none
  | .attachOnly, .detached => none
  | .attachOnly, .attached => some .already
  | .observation, .detached => none
  | .observation, .attached => none
  | .session, .attached => none
  | .session, .detached => some .notAttached
  | _, .evicted => some .evicted

end Sys2Proof.Machine
end

