-- ==== Sys2Proof/Machine/Ops.lean ====
section
/-! DEFINITION. What the Source Table and the Payload Pool do with a source: counting, formation, requests for a slot, and
the ends of a batch. -/

namespace Sys2Proof.Machine

/-! ### The Payload Pool -/

/-- The payload list of source `i` replaced; the cells it gives up return to the free list, and those it takes leave it
(R43). -/
def setWords (i : SourceId) (ws : List PoolWord) (s : State) : State :=
  let r := s.src i
  { s.setSrc i { r with words := ws } with poolFree := s.poolFree + r.words.length - ws.length }

/-! ### Batches and copies -/

/-- The batch with every port's copy changed. -/
def mapCopies (f : Port → CopyState → CopyState) (b : Batch) : Batch :=
  { b with copies := #v[f 0 (b.copy 0), f 1 (b.copy 1), f 2 (b.copy 2), f 3 (b.copy 3)] }

/-- The values that travel with a batch's placements (R58). -/
def fieldsOf (b : Batch) : DeliveryFields :=
  { count := b.count, overrun := b.overrun, stamp := b.stamp, payload := b.payload }

/-- The batch that a source's pending occurrences make, before any placement (R11, R48). -/
def newBatch (r : Source) (form : Form) : Batch :=
  let base : Batch :=
    { ref := r.nextRef, count := r.pending, overrun := r.overrun, stamp := r.firstStamp.getD 0#32, payload := none,
      form := form, priority := r.routing.priority, copies := Vector.replicate 4 .noCopy, excluded := 0#4,
      offer := none }
  match r.routing.kind with
  | .line _ _ => base
  | .soft _ _ =>
    { base with
      count := 1, overrun := false, stamp := (r.words.head?.map PoolWord.stamp).getD 0#32,
      payload := r.words.head?.map fun w => { word := w.word, raiser := w.raiser } }

/-- The record once its pending occurrences have moved into batch `b` (R11). -/
def formed (r : Source) (b : Batch) : Source :=
  { r with state := .active, batch := some b, pending := 0, overrun := false, firstStamp := none,
           nextRef := r.nextRef + 1 }

/-- The placements of a batch's copies at a set of ports (R12, R13). -/
def placements (i : SourceId) (b : Batch) (kind : EntryKind) (ports : PortSet) : List Instr :=
  (portsOf ports).map fun p =>
    .placement p { id := { source := i, kind := kind, ref := b.ref }, priority := b.priority, fields := fieldsOf b }

/-- The source's record with its batch replaced. -/
def setBatch (i : SourceId) (b : Batch) (s : State) : State := s.setSrc i { s.src i with batch := some b }

/-- A batch forms and its copies are placed as owed at a set of ports (R11 to R13). -/
def placeBatch (i : SourceId) (form : Form) (kind : EntryKind) (ports : PortSet) (s : State) : State :=
  let r := s.src i
  let b := mapCopies (fun p c => if portIn p ports then .owed else c) (newBatch r form)
  (s.setSrc i (formed r b)).send (placements i b kind ports)

/-! ### Formation (R10 to R14) -/

/-- The last resort of a DIRECT or SHARED attempt: a FALLBACK batch if the fallback is named and ATTACHED, else the source
stays WAITING (R12, R14). -/
def attemptFallback (i : SourceId) (s : State) : State :=
  match seenFallback s (s.src i).routing with
  | some f => placeBatch i .fallback .fallback (onePort f) s
  | none => s

/-- The attempt of a DIRECT source (R12). -/
def attemptDirect (i : SourceId) (s : State) : State :=
  match lowestPort (s.src i).routing.targets with
  | some t => if tableSees s t then placeBatch i .direct .direct (onePort t) s else attemptFallback i s
  | none => attemptFallback i s

/-- The attempt of a BROADCAST source (R13). -/
def attemptBroadcast (i : SourceId) (s : State) : State :=
  let ports := seenOf s (s.src i).routing.targets
  if ports = 0#4 then s else placeBatch i .broadcast .broadcast ports s

/-- The Source Table asks for an offer slot and marks the request as standing (R14, R21). -/
def requestSlot (i : SourceId) (kind : RequestKind) (stamp : Time) (s : State) : State :=
  let r := s.src i
  (s.setSrc i { r with slotRequest := some r.nextRequest, nextRequest := r.nextRequest + 1 }).send
    [.slotRequest i kind r.nextRequest r.routing.priority stamp]

/-- The attempt of a SHARED source (R14). -/
def attemptShared (i : SourceId) (s : State) : State :=
  if seenOf s (s.src i).routing.targets = 0#4 then attemptFallback i s
  else requestSlot i .first ((firstPending (s.src i)).getD 0#32) s

/-- A formation attempt (R10). It needs WAITING, RUNNING, no standing request, and, as WAITING implies (R7), a pending
occurrence. Like the grant of a first offer, which forms a batch too, it reads the ports through `tableSees`: R127 says of a
formation attempt what it reads of a port whose attach report has not arrived (log 19). -/
def attempt (i : SourceId) (s : State) : State :=
  let r := s.src i
  if r.state = .waiting ∧ s.runState = .running ∧ r.slotRequest = none ∧ pendingCount r ≠ 0 then
    match r.routing.mode with
    | .direct => attemptDirect i s
    | .broadcast => attemptBroadcast i s
    | .shared => attemptShared i s
  else s

/-- The source becomes WAITING and a formation attempt is made. -/
def waitAndAttempt (i : SourceId) (s : State) : State := attempt i (s.setSrc i { s.src i with state := .waiting })

/-- Formation attempts for the sources that satisfy a test, in ascending order (log 11). -/
def attemptWhere (test : Source → Bool) (s : State) : State :=
  (List.finRange 48).foldl (fun s i => if test (s.src i) then attempt i s else s) s

/-! ### Occurrences (R8) -/

/-- The record of a line source with one more occurrence counted at time `now` (R8). -/
def counted (now : Time) (r : Source) : Source :=
  if r.pending < 255 then
    { r with pending := r.pending + 1, firstStamp := if r.pending = 0 then some now else r.firstStamp }
  else { r with overrun := true }

/-- An occurrence of a line source arrives (R8). -/
def occurrence (i : SourceId) (s : State) : State :=
  let r := s.src i
  match r.state with
  | .off | .draining => s
  | .idle | .waiting => waitAndAttempt i (s.setSrc i (counted s.time r))
  | .active => s.setSrc i (counted s.time r)

/-! ### Ends of a batch -/

/-- The batch is removed with its word, and last outcome is set (R22, R24, R27). -/
def endBatch (i : SourceId) (o : LastOutcome) (s : State) : State :=
  let s := setWords i (s.src i).words.tail s
  s.setSrc i { s.src i with batch := none, lastOutcome := o }

/-- After a completion or a discard by expiry: IDLE with nothing pending, otherwise WAITING and an attempt (R22, R24). -/
def afterBatch (i : SourceId) (s : State) : State :=
  if pendingCount (s.src i) = 0 then s.setSrc i { s.src i with state := .idle } else waitAndAttempt i s

/-- The Source Table tells the Line Qualifier something of a line source; nothing for a soft one. -/
def tellLine (i : SourceId) (m : LineId → Instr) (s : State) : State :=
  match lineOf i with
  | some l => s.send [m l]
  | none => s

/-- Completion (R22). -/
def complete (i : SourceId) (s : State) : State :=
  afterBatch i (tellLine i .completionReport (endBatch i .delivered s))

/-- The end of draining (R27). -/
def endDraining (i : SourceId) (b : Batch) (s : State) : State :=
  let delivered := someCopy b (· == .done)
  let s := endBatch i (if delivered then .delivered else .revoked) s
  let s := if delivered then tellLine i .completionReport s else s
  s.setSrc i { s.src i with state := .off }

/-- The check made after each report that changes a copy table (R22); while DRAINING it is the check for the end of
draining (R27). -/
def checkBatch (i : SourceId) (s : State) : State :=
  let r := s.src i
  match r.batch with
  | none => s
  | some b =>
    match r.state with
    | .active => if completes r b then complete i s else s
    | .draining => if someCopy b (· == .inService) then s else endDraining i b s
    | _ => s

/-- The record with batch `b` merged back into the pending occurrences (R23). -/
def merged (r : Source) (b : Batch) : Source :=
  match r.routing.kind with
  | .line _ _ =>
    { r with
      pending := min 255 (b.count + r.pending),
      overrun := decide (255 < b.count + r.pending) || b.overrun || r.overrun,
      firstStamp := some b.stamp }
  | .soft _ _ => r

/-- Return to pending (R23). -/
def returnToPending (i : SourceId) (o : LastOutcome) (b : Batch) (s : State) : State :=
  waitAndAttempt i (s.setSrc i { merged (s.src i) b with batch := none, lastOutcome := o })

/-- The kind of the placements of a batch that the Source Table itself placed; a SHARED batch has none (R14). -/
def placedKind : Form → Option EntryKind
  | .direct => some .direct
  | .broadcast => some .broadcast
  | .fallback => some .fallback
  | .shared => none

/-- The withdrawal requests for the copies still OWED or QUEUED (R24, R26). -/
def copyWithdrawals (i : SourceId) (b : Batch) : List Instr :=
  match placedKind b.form with
  | none => []
  | some kind =>
    (allPorts.filter fun p => b.copy p == .owed || b.copy p == .queued).map fun p =>
      .withdrawalRequest p { source := i, kind := kind, ref := b.ref }

/-- What the Source Table sends to end the undelivered work of a source: the cancel of a standing slot request, the close
of an open offer, and the withdrawals of queued and owed copies (R24, R26, R164). -/
def endOfWork (i : SourceId) (r : Source) : List Instr :=
  (match r.slotRequest with | some req => [.slotRequestCancel i req] | none => []) ++
  (match r.batch with
    | some b => (if b.offer.isSome then [.closeRequest i b.ref] else []) ++ copyWithdrawals i b
    | none => [])

/-- The batch with nothing left OWED, QUEUED or OFFERED (R26). -/
def withoutUntaken (b : Batch) : Batch :=
  { mapCopies (fun _ c => if outstanding c && c != .inService then .noCopy else c) b with offer := none }

/-- Discard by expiry, and what follows it (R24, R51). -/
def discardExpired (i : SourceId) (s : State) : State :=
  let s := s.send (endOfWork i (s.src i))
  let s := s.setSrc i { s.src i with slotRequest := none }
  afterBatch i (endBatch i .expired s)

/-- A SHARED batch becomes FALLBACK: every offer copy is gone and the fallback is owed its copy (R20, R21). -/
def convertToFallback (i : SourceId) (b : Batch) (f : Port) (s : State) : State :=
  let b' := mapCopies (fun p c => if p = f then .owed else if c = .offered then .noCopy else c)
    { b with form := .fallback, excluded := 0#4, offer := none }
  (setBatch i b' s).send (placements i b' .fallback (onePort f))

/-- The EXPIRED notice to the source's owner, if it names a port that is ATTACHED (R21). -/
def expiredByTable (i : SourceId) (s : State) : List Instr :=
  match (s.src i).owner with
  | some o => if attached s o then [.noticePosting o .expired (.source i)] else []
  | none => []

/-- A re-offer that cannot be made: FALLBACK if the fallback is usable, otherwise a discard with its notice (R21, R15). -/
def noReOffer (i : SourceId) (b : Batch) (s : State) : State :=
  match usableFallback s (s.src i).routing b.excluded with
  | some f => convertToFallback i b f s
  | none => (discardExpired i s).send (expiredByTable i s)

/-! ### Enabling and disabling (R25, R26) -/

/-- DISABLE of a source, once its checks have passed (R26, R52). -/
def disableSource (i : SourceId) (s : State) : State :=
  let r := s.src i
  match r.state with
  | .off | .draining => s
  | _ =>
    let s := s.send (endOfWork i r)
    let r0 := { r with pending := 0, overrun := false, firstStamp := none, slotRequest := none, enable := false }
    let s :=
      match r.batch with
      | none => setWords i [] (s.setSrc i { r0 with state := .off })
      | some b =>
        if someCopy b (· == .inService) then
          setWords i (r.words.take 1) (s.setSrc i { r0 with state := .draining, batch := some (withoutUntaken b) })
        else setWords i [] (s.setSrc i { r0 with state := .off, batch := none, lastOutcome := .discarded })
    tellLine i .disableReport s

/-- What a TABLE_RESET does to one unlocked source (R164, steps 1 to 7). -/
def resetSource (i : SourceId) (s : State) : State :=
  let r := s.src i
  let removals : List Instr :=
    match r.batch with
    | some b => (allPorts.filter fun p => b.copy p == .inService).map fun p => .removalRequest p i b.ref
    | none => []
  let s := setWords i [] (s.send (endOfWork i r ++ removals))
  let s := s.setSrc i (freshSource (powerUpRouting i) r.nextRef r.nextRequest)
  match r.state with
  | .off | .draining => s
  | _ => tellLine i .disableReport s

end Sys2Proof.Machine
end

