-- ==== Sys2Proof/Decode.lean ====
section
/-! DEFINITION. The commands that words spell. The table gives no row any bits, so decodeTableWord spells none. What the
spec does encode is the command phase of a frame: R181's codes and argument bytes, read and written here. -/

namespace Sys2Proof

open Sys2Proof.Machine

/-- The command that a table word spells: no row of the table has bits. -/
def decodeTableWord (_nbits _w : Nat) : Option Instr := none

/-- The number of argument bytes of each recognised code (R181); none for an unrecognised one. -/
def argCount (code : Byte) : Option Nat :=
  match code.toNat with
  | 0x01 | 0x03 | 0x04 | 0x10 | 0x11 | 0x13 | 0x14 | 0x18 | 0x40 | 0x41 | 0x44 | 0x50 | 0x51 | 0x53 => some 0
  | 0x12 | 0x15 | 0x16 | 0x30 | 0x32 | 0x33 | 0x34 | 0x35 | 0x36 | 0x42 | 0x45 | 0x52 => some 1
  | 0x02 | 0x17 | 0x43 => some 2
  | 0x20 => some 3
  | 0x31 => some 7
  | _ => none

/-- The number of data bytes of each recognised code (R181); 0 for an unrecognised one (R176, R177). -/
def dataCount (code : Byte) : Nat :=
  match code.toNat with
  | 0x01 => 8
  | 0x04 => 62
  | 0x10 | 0x11 => 11
  | 0x18 => 54
  | 0x30 => 28
  | 0x50 | 0x51 => 4
  | 0x52 => 14
  | 0x53 => 6
  | _ => 0

/-- The port whose master sends the command; none for a row that is no command frame. -/
def framePort : Instr → Option Port
  | .status p | .attach p _ | .detach p | .repeatLast p | .peek p | .take p | .doneSeq p _ | .hold p | .resume p
  | .setMask p _ | .setGate p _ | .setLimit p _ | .readSlots p | .raiseWord p _ _ | .readSource p _
  | .writeRoute p _ _ | .enable p _ | .disable p _ | .adopt p _ | .release p _ | .lock p _ | .run p | .stop p
  | .evict p _ | .seize p _ _ | .tableReset p | .setWindow p _ | .readLines p | .readTime p | .readOffer p _
  | .readIdent p | .badCommand p _ => some p
  | _ => none

/-- The code byte and the argument bytes of a command, in the order sent (R181); none for a row that is no command
frame. An unrecognised code has no argument bytes (R172). -/
def encodeFrame : Instr → Option (Byte × List Byte)
  | .status _ => some (0x01#8, [])
  | .attach _ tag => some (0x02#8, bytes2 tag)
  | .detach _ => some (0x03#8, [])
  | .repeatLast _ => some (0x04#8, [])
  | .peek _ => some (0x10#8, [])
  | .take _ => some (0x11#8, [])
  | .doneSeq _ seq => some (0x12#8, [seq])
  | .hold _ => some (0x13#8, [])
  | .resume _ => some (0x14#8, [])
  | .setMask _ mask => some (0x15#8, [mask])
  | .setGate _ mode => some (0x16#8, [mode])
  | .setLimit _ ms => some (0x17#8, bytes2 ms)
  | .readSlots _ => some (0x18#8, [])
  | .raiseWord _ source word => some (0x20#8, source :: bytes2 word)
  | .readSource _ source => some (0x30#8, [source])
  | .writeRoute _ source b =>
    some (0x31#8, [source, b.mode, b.targets, b.fallback, b.priority, b.kindA, b.kindB])
  | .enable _ source => some (0x32#8, [source])
  | .disable _ source => some (0x33#8, [source])
  | .adopt _ source => some (0x34#8, [source])
  | .release _ source => some (0x35#8, [source])
  | .lock _ source => some (0x36#8, [source])
  | .run _ => some (0x40#8, [])
  | .stop _ => some (0x41#8, [])
  | .evict _ port => some (0x42#8, [port])
  | .seize _ source port => some (0x43#8, [source, port])
  | .tableReset _ => some (0x44#8, [])
  | .setWindow _ ms => some (0x45#8, [ms])
  | .readLines _ => some (0x50#8, [])
  | .readTime _ => some (0x51#8, [])
  | .readOffer _ slot => some (0x52#8, [slot])
  | .readIdent _ => some (0x53#8, [])
  | .badCommand _ code => some (code, [])
  | _ => none

/-- The commands without argument bytes; an unrecognised code is BAD_COMMAND (R177, R181). -/
def decodeNoArgs (p : Port) (code : Byte) : Option Instr :=
  match code.toNat with
  | 0x01 => some (.status p)
  | 0x03 => some (.detach p)
  | 0x04 => some (.repeatLast p)
  | 0x10 => some (.peek p)
  | 0x11 => some (.take p)
  | 0x13 => some (.hold p)
  | 0x14 => some (.resume p)
  | 0x18 => some (.readSlots p)
  | 0x40 => some (.run p)
  | 0x41 => some (.stop p)
  | 0x44 => some (.tableReset p)
  | 0x50 => some (.readLines p)
  | 0x51 => some (.readTime p)
  | 0x53 => some (.readIdent p)
  | _ => if (argCount code).isNone then some (.badCommand p code) else none

/-- The commands with one argument byte (R181). -/
def decodeOneArg (p : Port) (code a : Byte) : Option Instr :=
  match code.toNat with
  | 0x12 => some (.doneSeq p a)
  | 0x15 => some (.setMask p a)
  | 0x16 => some (.setGate p a)
  | 0x30 => some (.readSource p a)
  | 0x32 => some (.enable p a)
  | 0x33 => some (.disable p a)
  | 0x34 => some (.adopt p a)
  | 0x35 => some (.release p a)
  | 0x36 => some (.lock p a)
  | 0x42 => some (.evict p a)
  | 0x45 => some (.setWindow p a)
  | 0x52 => some (.readOffer p a)
  | _ => none

/-- The commands with two argument bytes (R181). -/
def decodeTwoArgs (p : Port) (code a b : Byte) : Option Instr :=
  match code.toNat with
  | 0x02 => some (.attach p (wordOf a b))
  | 0x17 => some (.setLimit p (wordOf a b))
  | 0x43 => some (.seize p a b)
  | _ => none

/-- The command that a frame on port `p` carries: its code byte and its argument bytes (R181). A recognised code with
another number of argument bytes is no complete command phase. -/
def decodeFrame (p : Port) (code : Byte) (args : List Byte) : Option Instr :=
  match args with
  | [] => decodeNoArgs p code
  | [a] => decodeOneArg p code a
  | [a, b] => decodeTwoArgs p code a b
  | [a, b, c] => if code = 0x20#8 then some (.raiseWord p a (wordOf b c)) else none
  | [a, b0, b1, b2, b3, b4, b5] => if code = 0x31#8 then some (.writeRoute p a ⟨b0, b1, b2, b3, b4, b5⟩) else none
  | _ => none

end Sys2Proof
end

