-- ==== Sys2Proof/Machine/LinkOps.lean ====
section
/-! DEFINITION. What a Port Interface does with a frame: taking the command, the port-state check, handing it to its block,
the last-response store and the response it drives. -/

namespace Sys2Proof.Machine

/-- A block's answer to a command: a status and the data bytes (R174). -/
structure Answer where
  status : Status
  data : List Byte
deriving DecidableEq, Repr

/-- What a block does with a command; no answer yet where a claim must be answered first (R72). -/
abbrev Body := State → State × Option Answer

/-- The code byte of a command frame. -/
def codeOf (c : Instr) : Byte := ((encodeFrame c).map Prod.fst).getD 0#8

/-- The argument bytes of a command frame. -/
def argsOf (c : Instr) : List Byte := ((encodeFrame c).map Prod.snd).getD []

/-- The command phase of a command's frame: code, arguments and check byte (R172). -/
def commandBytes (c : Instr) : List Byte := (codeOf c :: argsOf c) ++ [checkByte (codeOf c :: argsOf c)]

/-- An answer with every data byte of the command 00h (R172). -/
def zeroAnswer (c : Instr) (st : Status) : Answer := { status := st, data := zeros (dataCount (codeOf c)) }

/-- An answer OK with no data. -/
def okAnswer : Answer := { status := .ok, data := [] }

/-- The response phase of an answer: status, data and check byte (R172, R173). -/
def responseBytes (a : Answer) : List Byte :=
  (statusCode a.status :: a.data) ++ [checkByte (statusCode a.status :: a.data)]

/-- The not-ready fill of a response with a number of data bytes: FFh in every byte (R174). -/
def notReadyFill (n : Nat) : List Byte := List.replicate (n + 2) Config.fillByte

/-- What the part drives in the response phase of the port's next answered frame: the answer if it was ready when the
phase began, else the fill. Which of the two is a free value (R174, log 7). -/
def driven (p : Port) (q : PortRecord) (a : Answer) : List Byte :=
  if Config.answerReady p.val q.frames then responseBytes a else notReadyFill a.data.length

/-- The port takes frames: no reset holds it, and it is not ignoring a chip select that was asserted through its reset
(R137, R168). -/
def takesFrames (s : State) (p : Port) : Bool := !s.crst && !(s.port p).inReset && !(s.port p).csIgnored

/-- Some command that the Port Interface of port `p` has released is still on its way to its block. -/
def handedFrom (s : State) (p : Port) : Bool := s.handed.any fun c => framePort c == some p

/-- The port's previous command has its response in the store or has been settled (R174). -/
def portFree (s : State) (p : Port) : Bool := (s.port p).running.isNone && !handedFrom s p

/-- The response phase of a frame whose answer becomes ready: as `driven` has it while nothing has been clocked since the
command phase; once the gap byte has been clocked the phase has begun without the answer, and carries the fill (R174). -/
def responseOf (p : Port) (q : PortRecord) (f : Frame) (a : Answer) : List Byte :=
  if f.clocked = 0 then driven p q a else notReadyFill a.data.length

/-- The frame in progress once its answer is ready. A frame that has ended, or after which another has begun, is not
touched (R175). -/
def frameAnswered (p : Port) (q : PortRecord) (a : Answer) : Option LinkFrame :=
  match q.frame with
  | some (.answering f) =>
    if f.awaiting && q.held.isEmpty then some (.answering { f with response := responseOf p q f a, awaiting := false })
    else q.frame
  | _ => q.frame

/-- The port's record once an answer is ready: the response is driven, and the store is replaced unless the command is
REPEAT (R178, R179). -/
def answered (c : Instr) (p : Port) (a : Answer) (q : PortRecord) : PortRecord :=
  { q with
    frame := frameAnswered p q a, frames := q.frames + 1,
    store := if c = .repeatLast p then q.store
      else some { code := codeOf c, args := argsOf c, status := a.status, data := a.data } }

/-- The answer of port `p`'s command `c` is ready. -/
def answer (c : Instr) (p : Port) (a : Answer) (s : State) : State := s.setPort p (answered c p a (s.port p))

/-- Once the port is free, the next command that waited is handed to its block (R174). -/
def handNext (p : Port) (s : State) : State :=
  if portFree s p then
    match (s.port p).held with
    | [] => s
    | c :: rest => { s.setPort p { s.port p with held := rest } with handed := s.handed ++ [c] }
  else s

/-- The command is checked against the port state and, if it passes, done by its block; its answer is driven and stored
(R174, R125). -/
def runCommand (c : Instr) (p : Port) (a : Access) (body : Body) (s : State) : State :=
  match portCheck a (s.port p).pstate with
  | some st => answer c p (zeroAnswer c st) s
  | none =>
    match body s with
    | (s', some ans) => answer c p ans s'
    | (s', none) => s'

/-- The frame of a command whose command phase is complete, its answer awaited (R172, R174). -/
def awaitedFrame (c : Instr) : LinkFrame :=
  .answering { command := commandBytes c, response := notReadyFill (dataCount (codeOf c)), awaiting := true, clocked := 0 }

/-- A frame's command phase is complete: it becomes the frame in progress, its answer awaited (R172, R174, log 6). -/
def beginFrame (c : Instr) (p : Port) (s : State) : State :=
  s.setPort p { s.port p with frame := some (awaitedFrame c) }

/-- The command of a frame is taken (R174). A port held in reset takes no frame; a command whose predecessor is still
running waits in the Port Interface; one that has waited and been released goes on from there, and its frame was begun
when it was taken (log 8). -/
def takeCommand (c : Instr) (p : Port) (a : Access) (body : Body) (s : State) : State :=
  if s.released then handNext p (runCommand c p a body { s with released := false })
  else if takesFrames s p then
    let s := beginFrame c p s
    if portFree s p then handNext p (runCommand c p a body s)
    else s.setPort p { s.port p with held := (s.port p).held ++ [c] }
  else s

/-- The meaning of a command frame: the command is taken, and ATTN follows. -/
def frameStep (c : Instr) (p : Port) (a : Access) (body : Body) (s : State) : Host.Outcome State Fault Refusal :=
  .next (judgeAttn (takeCommand c p a body s))

/-- The meaning of a message or event that acts inside the part: it arrives, acts, and ATTN follows. While CRST is
asserted it has no effect (R168). -/
def eventStep (m : Instr) (act : State → State) (s : State) : Host.Outcome State Fault Refusal :=
  if s.crst then .next s else .next (judgeAttn (act (s.arrive m)))

end Sys2Proof.Machine
end

