-- ==== Sys2Proof/Machine/UnitOps.lean ====
section
/-! DEFINITION. What a Delivery Unit does with its queue, its owed placements, its notices, its sequence numbers and its
service slots, and the handback of a port. -/

namespace Sys2Proof.Machine

/-! ### Admission (R63, R64) -/

/-- Owed placement `a` is admitted before `b`, whose placement was taken earlier: a higher priority, or the same priority
and a greater age (R63). -/
def admittedBefore (now : Time) (a b : Owed) : Bool :=
  decide (a.entry.priority < b.entry.priority) ||
    (a.entry.priority == b.entry.priority && decide (age now b.since < age now a.since))

/-- The owed placement that the admission arbiter chooses (R63). -/
def bestOwed (now : Time) : List Owed → Option Owed
  | [] => none
  | o :: rest =>
    match bestOwed now rest with
    | none => some o
    | some b => if admittedBefore now b o then some b else some o

/-- The owed placements in the order the arbiter would admit them (R63, R129), from a list of at most the given length. -/
def owedOrder (now : Time) : Nat → List Owed → List Owed
  | 0, _ => []
  | n + 1, owed =>
    match bestOwed now owed with
    | none => []
    | some o => o :: owedOrder now n (owed.erase o)

/-- The reports of one admission (R64). -/
def admissionReports (p : Port) (e : Placement) : List Instr :=
  match e.id.kind with
  | .offer round => [.offerAdmissionReport e.id.source p round, .admittedReport e.id.source p e.id.ref]
  | _ => [.admittedReport e.id.source p e.id.ref]

/-- Admissions until the entries are all in use or nothing is owed, at most the given number; with their reports. -/
def admissions (now : Time) (p : Port) : Nat → DeliveryUnit → DeliveryUnit × List Instr
  | 0, d => (d, [])
  | n + 1, d =>
    if d.entries.length < Config.queueCapacity then
      match bestOwed now d.owed with
      | none => (d, [])
      | some o =>
        let r := admissions now p n { d with entries := d.entries ++ [o.entry], owed := d.owed.erase o }
        (r.1, admissionReports p o.entry ++ r.2)
    else (d, [])

/-- The admission arbiter of port `p` runs (R63). -/
def runAdmission (p : Port) (s : State) : State :=
  let d := s.unit p
  let r := admissions s.time p d.owed.length d
  (s.setUnit p r.1).send r.2

/-! ### Placements and withdrawals (R62, R65, R66) -/

/-- The report of a placement turned back, and of an entry or owed placement removed by handback: the loss of a candidate
for kind OFFER, a withdrawal otherwise (R62). -/
def turnedBack (p : Port) (e : Placement) : Instr :=
  match e.id.kind with
  | .offer round => .candidateLoss e.id.source e.id.ref round p
  | _ => .withdrawalReport e.id.source p e.id.ref

/-- The unit once the older entry or owed placement of a source has gone, without a report (R65). -/
def withoutStale (i : SourceId) (d : DeliveryUnit) : DeliveryUnit :=
  { d with entries := d.entries.filter (·.id.source ≠ i), owed := d.owed.filter (·.entry.id.source ≠ i) }

/-- A placement becomes owed, and the arbiter runs (R62, R63). -/
def owePlacement (p : Port) (e : Placement) (s : State) : State :=
  let d := s.unit p
  runAdmission p (s.setUnit p { d with owed := d.owed ++ [{ entry := e, since := s.time }] })

/-- A placement is admitted at once into a free entry, whatever is owed; the arbiter then runs (R65). -/
def admitAtOnce (p : Port) (e : Placement) (s : State) : State :=
  let d := s.unit p
  runAdmission p ((s.setUnit p { d with entries := d.entries ++ [e] }).send (admissionReports p e))

/-- A placement arrives (R62). An older entry or placement of the same source is stale and goes without a report (R65). Where
the stale entry was all that kept other placements owed, R65 says two things of the freed entry, and which holds is the free
value (log 9): the new placement is admitted at once, or the freed entry goes to a placement owed before it, as when the
withdrawal of the stale entry is taken first (R66). -/
def takePlacement (p : Port) (e : Placement) (s : State) : State :=
  if attached s p then
    let d := withoutStale e.id.source (s.unit p)
    let s := s.setUnit p d
    if d.owed ≠ [] ∧ d.entries.length < Config.queueCapacity then
      if Config.replacementFirst then admitAtOnce p e s else owePlacement p e (runAdmission p s)
    else owePlacement p e s
  else s.send [turnedBack p e]

/-- A withdrawal request is taken (R66). -/
def takeWithdrawal (p : Port) (id : EntryId) (s : State) : State :=
  let d := s.unit p
  if d.entries.any (·.id = id) then
    runAdmission p (s.setUnit p { d with entries := d.entries.filter (·.id ≠ id) })
  else s.setUnit p { d with owed := d.owed.filter (·.entry.id ≠ id) }

/-! ### Notices (R75) -/

/-- The notices with one posting of a kind taken at time `now`: a new notice at the end, or an addition in place. -/
def addNotice (now : Time) (kind : NoticeKind) (subject : Subject) (notices : List Notice) : List Notice :=
  if notices.any (·.kind = kind) then
    notices.map fun n => if n.kind = kind then { n with count := min 255 (n.count + 1), subject := subject } else n
  else notices ++ [{ kind := kind, count := 1, subject := subject, stamp := now }]

/-- A notice posting is taken (R75). -/
def takeNotice (p : Port) (kind : NoticeKind) (subject : Subject) (s : State) : State :=
  if attached s p then
    let d := s.unit p
    s.setUnit p { d with notices := addNotice s.time kind subject d.notices }
  else s

/-! ### Sequence numbers and service slots -/

/-- The four service slots, ascending. -/
def allServiceSlots : List ServiceSlotId := [0, 1, 2, 3]

/-- The sequence number that a service slot holds. -/
def slotSeq : ServiceSlot → Option Byte
  | .held r => some r.seq
  | _ => none

/-- The sequence numbers in the service slots. -/
def heldSeqs (d : DeliveryUnit) : List Byte := allServiceSlots.filterMap fun k => slotSeq (d.slot k)

/-- The number is in a service slot or in the revoked list (R74). -/
def seqInUse (d : DeliveryUnit) (n : Byte) : Bool := (heldSeqs d).contains n || d.revoked.contains n

/-- The counter's next value: from 255 to 1 and otherwise up by one (R74). -/
def nextSeq (n : Byte) : Byte := if n = 255#8 then 1#8 else n + 1#8

/-- The counter stepped until it is at a number not in use, at most the given number of times. -/
def stepSeq (d : DeliveryUnit) : Nat → Byte → Byte
  | 0, n => n
  | fuel + 1, n => if seqInUse d (nextSeq n) then stepSeq d fuel (nextSeq n) else nextSeq n

/-- The sequence number assigned next (R74). -/
def assignedSeq (d : DeliveryUnit) : Byte := stepSeq d 255 d.seq

/-- The lowest-numbered FREE service slot (R105). -/
def lowestFreeSlot (d : DeliveryUnit) : Option ServiceSlotId := allServiceSlots.find? fun k => d.slot k = .free

/-- The deadline of a delivery that enters service at time `now` under a service limit (R107). -/
def serviceDeadline (now : Time) (limit : Word) : Option Time :=
  if limit = 0#16 then none else some (after now (limit.toNat * 1000))

/-- The revoked list with a number entered at its tail; a full list drops its oldest number first (R112). -/
def enterRevoked (l : List Byte) (n : Byte) : List Byte :=
  (if Config.revokedCapacity ≤ l.length then l.tail else l) ++ [n]

/-- The gate after a TAKE that returns a record with status OK (R79). -/
def gateAfterTake (d : DeliveryUnit) : Bool := d.gateOpen && !d.gateOnTake

/-- A delivery enters service slot `k` with the next sequence number (R74, R107). -/
def enterService (now : Time) (k : ServiceSlotId) (kind : Form) (e : Placement) (d : DeliveryUnit) : DeliveryUnit :=
  let n := assignedSeq d
  { d.setSlot k (.held
      { seq := n, source := e.id.source, kind := kind, ref := e.id.ref, taken := now,
        deadline := serviceDeadline now d.limit }) with
    seq := n, gateOpen := gateAfterTake d }

/-- The service slot that holds a delivery satisfying a test, with its record. -/
def findHeld (d : DeliveryUnit) (test : ServiceRecord → Bool) : Option (ServiceSlotId × ServiceRecord) :=
  allServiceSlots.findSome? fun k =>
    match d.slot k with
    | .held r => if test r then some (k, r) else none
    | _ => none

/-- A removal request is taken: the delivery leaves its slot for the revoked list, or the claim of that batch is marked
(R116). -/
def takeRemoval (p : Port) (i : SourceId) (ref : Nat) (s : State) : State :=
  let d := s.unit p
  match findHeld d fun r => r.source == i && r.ref == ref with
  | some (k, r) => s.setUnit p { d.setSlot k .free with revoked := enterRevoked d.revoked r.seq }
  | none =>
    s.setUnit p { d with
      claims := d.claims.map fun c =>
        if c.entry.id.source = i ∧ c.entry.id.ref = ref then { c with removal := true } else c }

/-- The deadline of a HELD slot expires (R113); a deadline not reached, or of a delivery that has left, has no effect
(R109). -/
def expireService (p : Port) (k : ServiceSlotId) (s : State) : State :=
  let d := s.unit p
  match d.slot k with
  | .held r =>
    match r.deadline with
    | some t =>
      if reached s.time t then
        let d := { d.setSlot k .free with revoked := enterRevoked d.revoked r.seq }
        (takeNotice p .revoked (.source r.source) (s.setUnit p d)).send [.revokedReport r.source p r.ref r.kind]
      else s
    | none => s
  | _ => s

/-! ### Handback (R129 to R131, R134) -/

/-- The reports of an entry or owed placement removed by handback; the Source Table also hears of an OFFER (R130). -/
def handbackReports (p : Port) (e : Placement) : List Instr :=
  match e.id.kind with
  | .offer _ => [turnedBack p e, .withdrawalReport e.id.source p e.id.ref]
  | _ => [turnedBack p e]

/-- The revoked report of a HELD slot ended by handback (R121). -/
def revocation (p : Port) : ServiceSlot → List Instr
  | .held r => [.revokedReport r.source p r.ref r.kind]
  | _ => []

/-- A service slot after handback: only a reservation for a claim in flight stays (R121). -/
def slotAfterHandback : ServiceSlot → ServiceSlot
  | .reserved id => .reserved id
  | _ => .free

/-- Every service slot changed. -/
def mapSlots (f : ServiceSlot → ServiceSlot) (d : DeliveryUnit) : Vector ServiceSlot 4 :=
  #v[f (d.slot 0), f (d.slot 1), f (d.slot 2), f (d.slot 3)]

/-- The PEER notices of a port that has left, to every other port (R134). -/
def peerNotices (p : Port) : List Instr :=
  (allPorts.filter (· ≠ p)).map fun q => .noticePosting q .peer (.port p)

/-- What handback reports, in the order of its steps (R129). -/
def handbackMessages (now : Time) (p : Port) (d : DeliveryUnit) : List Instr :=
  (queueOrder d.entries).flatMap (handbackReports p) ++
  (owedOrder now d.owed.length d.owed).flatMap (fun o => handbackReports p o.entry) ++
  allServiceSlots.flatMap (fun k => revocation p (d.slot k)) ++
  peerNotices p

/-- A Delivery Unit after handback: claims in flight are marked as of an ended session (R129, R131). -/
def unitAfterHandback (d : DeliveryUnit) : DeliveryUnit :=
  { d with entries := [], owed := [], notices := [], slots := mapSlots slotAfterHandback d, revoked := [],
           claims := d.claims.map fun c => { c with ended := true } }

/-- The handback of port `p`, whose state has already left ATTACHED (R129). -/
def handback (p : Port) (s : State) : State :=
  let d := s.unit p
  (s.setUnit p (unitAfterHandback d)).send (handbackMessages s.time p d)

/-- Port `p` takes a state other than ATTACHED, with the handback if it was ATTACHED (R128, R133, R136). -/
def leaveSession (p : Port) (next : PortState) (s : State) : State :=
  let q := s.port p
  let s' := s.setPort p { q with pstate := next }
  if q.pstate = .attached then handback p s' else s'

end Sys2Proof.Machine
end

