-- ==== Sys2Proof/Machine/PortCommands.lean ====
section
/-! DEFINITION. The commands taken at the Port Interface: STATUS, ATTACH, DETACH, REPEAT (chapters 7 and 10). -/

namespace Sys2Proof.Machine

/-- An answer OK with data, of a command that changes no state. -/
def readAnswer (data : List Byte) (s : State) : State × Option Answer := (s, some { status := .ok, data := data })

/-- A refusal with every data byte 00h, of a command that changes no state. -/
def refuse (c : Instr) (st : Status) (s : State) : State × Option Answer := (s, some (zeroAnswer c st))

/-- An answer OK with no data, with the state that the command leaves. -/
def accept (s : State) : State × Option Answer := (s, some okAnswer)

/-- STATUS byte 3: the four port states, port 0 in the lowest two bits (R184). -/
def portStatesByte (s : State) : Byte :=
  allPorts.foldl (fun b p => b ||| (portStateCode (s.port p).pstate <<< (2 * p.val))) 0#8

/-- The eight data bytes of STATUS (R137, R184). -/
def statusData (p : Port) (s : State) : List Byte :=
  [portStateCode (s.port p).pstate] ++ bytes2 (s.port p).tag ++
  [portStatesByte s, byteOf s.poolFree, portByte s.steering, runStateCode s.runState, s.window]

/-- What STATUS does (R137). -/
def statusBody (p : Port) : Body := fun s => readAnswer (statusData p s) s

/-- STATUS (R137, R55, R171). -/
def execStatus (p : Port) (s : State) : Host.Outcome State Fault Refusal :=
  frameStep (.status p) p .anyState (statusBody p) s

/-- What ATTACH does in DETACHED (R126). -/
def attachBody (p : Port) (tag : Word) : Body := fun s =>
  let s := s.setPort p { s.port p with pstate := .attached, tag := tag }
  let s := s.setUnit p { s.unit p with seq := 0#8, revoked := [] }
  accept (s.send [.attachReport p])

/-- ATTACH (R126). -/
def execAttach (p : Port) (tag : Word) (s : State) : Host.Outcome State Fault Refusal :=
  frameStep (.attach p tag) p .attachOnly (attachBody p tag) s

/-- What DETACH does in ATTACHED (R128). -/
def detachBody (p : Port) : Body := fun s => accept (leaveSession p .detached s)

/-- DETACH (R128). -/
def execDetach (p : Port) (s : State) : Host.Outcome State Fault Refusal :=
  frameStep (.detach p) p .session (detachBody p) s

/-- The answer of REPEAT: the stored status, code, arguments and data, each in its place, or EMPTY (R179). -/
def repeatAnswer : Option StoredResponse → Answer
  | some r => { status := r.status, data := [r.code] ++ padTo 7 r.args ++ padTo 54 r.data }
  | none => { status := .empty, data := zeros 62 }

/-- What REPEAT does (R179). -/
def repeatBody (p : Port) : Body := fun s => (s, some (repeatAnswer (s.port p).store))

/-- REPEAT (R179). -/
def execRepeatLast (p : Port) (s : State) : Host.Outcome State Fault Refusal :=
  frameStep (.repeatLast p) p .anyState (repeatBody p) s

end Sys2Proof.Machine
end

