-- ==== Sys2Proof/Machine/SourceCommands.lean ====
section
/-! DEFINITION. The commands taken at the Source Table: RAISE, READ_SOURCE, WRITE_ROUTE, ENABLE, DISABLE, ADOPT, RELEASE
and LOCK (chapters 3 and 8). -/

namespace Sys2Proof.Machine

/-! ### Checks (R140) -/

/-- Steps 2 and 3: the source that the byte names, if it is 0 to 47 and unlocked; otherwise the refusing status. -/
def unlockedSource (s : State) (b : Byte) : Except Status SourceId :=
  match sourceOf b with
  | none => .error .badArg
  | some i => if (s.src i).lock then .error .locked else .ok i

/-- Steps 2 to 4: the source that the byte names, if it is 0 to 47, unlocked and owned by port `p`. -/
def ownedSource (s : State) (p : Port) (b : Byte) : Except Status SourceId :=
  match unlockedSource s b with
  | .error st => .error st
  | .ok i => if (s.src i).owner = some p then .ok i else .error .notOwner

/-! ### RAISE (R45, R46) -/

/-- A word is appended to the payload list of source `i`, and the occurrence is recorded (R46, R9). -/
def raiseOn (i : SourceId) (w : PoolWord) (s : State) : State :=
  let s := setWords i ((s.src i).words ++ [w]) s
  match (s.src i).state with
  | .idle | .waiting => waitAndAttempt i s
  | _ => s

/-- Checks 2 to 6 of R45: the source that may take the word, or the refusing status. A port outside the raisers of an OFF
source is thus refused NOT_RAISER: DEDUCED (log 23), from R45's order, against R141's "every RAISE" refused DISABLED. -/
def raiseCheck (s : State) (p : Port) (b : Byte) : Except Status SourceId :=
  match sourceOf b with
  | none => .error .badArg
  | some i =>
    match (s.src i).routing.kind with
    | .line _ _ => .error .badArg
    | .soft depth raisers =>
      if !portIn p raisers then .error .notRaiser
      else if (s.src i).state = .off ∨ (s.src i).state = .draining then .error .disabled
      else if depth ≤ (s.src i).words.length then .error .full
      else if s.poolFree = 0 then .error .poolEmpty
      else .ok i

/-- What RAISE does (R45, R46). -/
def raiseBody (p : Port) (b : Byte) (word : Word) : Body := fun s =>
  match raiseCheck s p b with
  | .error st => refuse (.raiseWord p b word) st s
  | .ok i => accept (raiseOn i { word := word, raiser := p, stamp := s.time } s)

/-- RAISE (R45, R46). -/
def execRaiseWord (p : Port) (source : Byte) (word : Word) (s : State) : Host.Outcome State Fault Refusal :=
  frameStep (.raiseWord p source word) p .session (raiseBody p source word) s

/-! ### READ_SOURCE (R153, R154) -/

/-- Two copy states in one byte: the first in bits 2 to 0, the second in bits 6 to 4 (R184). -/
def copyPair (a b : CopyState) : Byte := copyCode a ||| (copyCode b <<< 4)

/-- The batch fields of READ_SOURCE, bytes 16 to 27 (R153, R184). -/
def batchBytes : Option Batch → List Byte
  | none => zeros 8 ++ [Config.noneByte] ++ zeros 3
  | some b =>
    [formCode b.form, byteOf b.count] ++ bytes4 b.stamp ++
    [copyPair (b.copy 0) (b.copy 1), copyPair (b.copy 2) (b.copy 3),
      (match b.offer with | some k => byteOf k.val | none => Config.noneByte)] ++
    bytes2 (match b.payload with | some w => w.word | none => 0#16) ++
    [(match b.payload with | some w => byteOf w.raiser.val | none => 0#8)]

/-- The flags byte of READ_SOURCE (R184). -/
def sourceFlags (r : Source) : Byte :=
  flagBit r.lock 0 ||| flagBit r.enable 1 ||| flagBit r.overrun 2 ||| flagBit (firstPending r).isSome 3 |||
  flagBit r.batch.isSome 4 ||| flagBit (match r.batch with | some b => b.overrun | none => false) 5

/-- The 28 data bytes of READ_SOURCE (R153, R184). -/
def sourceData (r : Source) : List Byte :=
  blockBytes (routeBlock r.routing) ++
  [portByte r.owner, sourceFlags r, sourceStateCode r.state, byteOf (pendingCount r)] ++
  bytes4 ((firstPending r).getD 0#32) ++
  [byteOf r.words.length, outcomeCode r.lastOutcome] ++ batchBytes r.batch

/-- What READ_SOURCE does (R153). -/
def readSourceBody (p : Port) (b : Byte) : Body := fun s =>
  match sourceOf b with
  | none => refuse (.readSource p b) .badArg s
  | some i => readAnswer (sourceData (s.src i)) s

/-- READ_SOURCE (R153). -/
def execReadSource (p : Port) (source : Byte) (s : State) : Host.Outcome State Fault Refusal :=
  frameStep (.readSource p source) p .observation (readSourceBody p source) s

/-! ### WRITE_ROUTE (R141, R142) -/

/-- What WRITE_ROUTE does (R140, R141, R142). -/
def writeRouteBody (p : Port) (b : Byte) (block : RouteBlock) : Body := fun s =>
  match ownedSource s p b with
  | .error st => refuse (.writeRoute p b block) st s
  | .ok i =>
    if (s.src i).state = .off then
      match routingOf i block with
      | none => refuse (.writeRoute p b block) .badArg s
      | some routing => accept (s.setSrc i { s.src i with routing := routing })
    else refuse (.writeRoute p b block) .busy s

/-- WRITE_ROUTE (R141). -/
def execWriteRoute (p : Port) (source : Byte) (block : RouteBlock) (s : State) : Host.Outcome State Fault Refusal :=
  frameStep (.writeRoute p source block) p .session (writeRouteBody p source block) s

/-! ### ENABLE and DISABLE (R25, R26, R144) -/

/-- What ENABLE does (R25, R140). -/
def enableBody (p : Port) (b : Byte) : Body := fun s =>
  match ownedSource s p b with
  | .error st => refuse (.enable p b) st s
  | .ok i =>
    let r := s.src i
    match r.state with
    | .draining => refuse (.enable p b) .busy s
    | .off =>
      if r.routing.targets = 0#4 then refuse (.enable p b) .incomplete s
      else accept (tellLine i .enableReport (s.setSrc i { r with state := .idle, enable := true }))
    | _ => accept s

/-- ENABLE (R25). -/
def execEnable (p : Port) (source : Byte) (s : State) : Host.Outcome State Fault Refusal :=
  frameStep (.enable p source) p .session (enableBody p source) s

/-- What DISABLE does (R26, R140). -/
def disableBody (p : Port) (b : Byte) : Body := fun s =>
  match ownedSource s p b with
  | .error st => refuse (.disable p b) st s
  | .ok i => accept (disableSource i s)

/-- DISABLE (R26). -/
def execDisable (p : Port) (source : Byte) (s : State) : Host.Outcome State Fault Refusal :=
  frameStep (.disable p source) p .session (disableBody p source) s

/-! ### Ownership and the lock (R145, R147, R150) -/

/-- What ADOPT does (R145). -/
def adoptBody (p : Port) (b : Byte) : Body := fun s =>
  match unlockedSource s b with
  | .error st => refuse (.adopt p b) st s
  | .ok i =>
    match (s.src i).owner with
    | none => accept (s.setSrc i { s.src i with owner := some p })
    | some o => if o = p then accept s else refuse (.adopt p b) .owned s

/-- ADOPT (R145). -/
def execAdopt (p : Port) (source : Byte) (s : State) : Host.Outcome State Fault Refusal :=
  frameStep (.adopt p source) p .session (adoptBody p source) s

/-- What RELEASE does (R147). -/
def releaseBody (p : Port) (b : Byte) : Body := fun s =>
  match ownedSource s p b with
  | .error st => refuse (.release p b) st s
  | .ok i => accept (s.setSrc i { s.src i with owner := none })

/-- RELEASE (R147). -/
def execRelease (p : Port) (source : Byte) (s : State) : Host.Outcome State Fault Refusal :=
  frameStep (.release p source) p .session (releaseBody p source) s

/-- What LOCK does (R150). -/
def lockBody (p : Port) (b : Byte) : Body := fun s =>
  match ownedSource s p b with
  | .error st => refuse (.lock p b) st s
  | .ok i => accept (s.setSrc i { s.src i with lock := true })

/-- LOCK (R150). -/
def execLock (p : Port) (source : Byte) (s : State) : Host.Outcome State Fault Refusal :=
  frameStep (.lock p source) p .session (lockBody p source) s

end Sys2Proof.Machine
end

