-- ==== Sys2Proof/Machine/ControlCommands.lean ====
section
/-! DEFINITION. The steering commands: RUN, STOP, EVICT, SEIZE, TABLE_RESET and SET_WINDOW (chapter 9). -/

namespace Sys2Proof.Machine

/-- The steering check before a steering command's own effect (R157, step 2). -/
def steered (c : Instr) (p : Port) (body : Body) : Body := fun s =>
  if s.steering = some p then body s else refuse c .notSteering s

/-- What RUN does (R158). -/
def runBody (p : Port) : Body :=
  steered (.run p) p fun s => accept ({ s with runState := .running }.send [.runReport])

/-- RUN (R158). -/
def execRun (p : Port) (s : State) : Host.Outcome State Fault Refusal :=
  frameStep (.run p) p .session (runBody p) s

/-- What STOP does (R159). -/
def stopBody (p : Port) : Body := steered (.stop p) p fun s => accept { s with runState := .stopped }

/-- STOP (R159). -/
def execStop (p : Port) (s : State) : Host.Outcome State Fault Refusal :=
  frameStep (.stop p) p .session (stopBody p) s

/-- What EVICT does (R161, R133). A port held by PnRST is EVICTED like any other DETACHED port: DESIGN CHOICE (log 20), between
R161's first order, in which the EVICT leaves it EVICTED, and R137's "DETACHED throughout". -/
def evictBody (p : Port) (b : Byte) : Body :=
  steered (.evict p b) p fun s =>
    match portOf b with
    | none => refuse (.evict p b) .badArg s
    | some v => if s.steering = some v then refuse (.evict p b) .badArg s else accept (leaveSession v .evicted s)

/-- EVICT (R161, R133). -/
def execEvict (p : Port) (port : Byte) (s : State) : Host.Outcome State Fault Refusal :=
  frameStep (.evict p port) p .session (evictBody p port) s

/-- The owner of source `i` is set by SEIZE: a change away from a port posts SEIZED to it (R148). -/
def seizeSource (i : SourceId) (o : Option Port) (s : State) : State :=
  let former := (s.src i).owner
  if former = o then s
  else
    let s := s.setSrc i { s.src i with owner := o }
    match former with
    | some f => s.send [.noticePosting f .seized (.source i)]
    | none => s

/-- What SEIZE does (R162, R148). -/
def seizeBody (p : Port) (b x : Byte) : Body :=
  steered (.seize p b x) p fun s =>
    match unlockedSource s b with
    | .error st => refuse (.seize p b x) st s
    | .ok i =>
      match seizePortOf x with
      | none => refuse (.seize p b x) .badArg s
      | some o => accept (seizeSource i o s)

/-- SEIZE (R162, R148). -/
def execSeize (p : Port) (source port : Byte) (s : State) : Host.Outcome State Fault Refusal :=
  frameStep (.seize p source port) p .session (seizeBody p source port) s

/-- Every unlocked source is reset, in ascending order (R164, log 11). -/
def resetTable (s : State) : State :=
  (List.finRange 48).foldl (fun s i => if (s.src i).lock then s else resetSource i s) s

/-- The TABLE notices, to every port (R165). -/
def tableNotices : List Instr := allPorts.map fun q => .noticePosting q .table .none

/-- What TABLE_RESET does (R164, R165). -/
def tableResetBody (p : Port) : Body :=
  steered (.tableReset p) p fun s => accept ((resetTable s).send tableNotices)

/-- TABLE_RESET (R164, R165). -/
def execTableReset (p : Port) (s : State) : Host.Outcome State Fault Refusal :=
  frameStep (.tableReset p) p .session (tableResetBody p) s

/-- What SET_WINDOW does (R163). -/
def setWindowBody (p : Port) (ms : Byte) : Body :=
  steered (.setWindow p ms) p fun s =>
    if ms = 0#8 then refuse (.setWindow p ms) .badArg s else accept { s with window := ms }

/-- SET_WINDOW (R163). -/
def execSetWindow (p : Port) (ms : Byte) (s : State) : Host.Outcome State Fault Refusal :=
  frameStep (.setWindow p ms) p .session (setWindowBody p ms) s

end Sys2Proof.Machine
end

