-- ==== Sys2Proof/Machine/Lines.lean ====
section
/-! DEFINITION. The rows taken at the Line Qualifier (chapter 2). -/

namespace Sys2Proof.Machine

/-- A settled edge of line `l`, whose settled level has just been changed: an occurrence is reported if the image is set
and the edge matches the trigger (R33). -/
def settledEdge (l : LineId) (s : State) : State :=
  match lineTrigger s l with
  | some t => if (s.line l).image && edgeMatches t (s.line l).settled then s.send [.occurrenceReport l] else s
  | none => s

/-- The settled level takes the raw level, the timer is idle, and a settled edge follows (R30 settle 0, R32). -/
def acceptLevel (l : LineId) (s : State) : State :=
  let x := s.line l
  settledEdge l (s.setLine l { x with settled := x.raw, timer := none })

/-- The raw level of line `l` changes (R30, R31). -/
def changeRaw (l : LineId) (high : Bool) (s : State) : State :=
  let x := s.line l
  if x.raw = high then s
  else
    let s := s.setLine l { x with raw := high }
    match x.timer, lineSettle s l with
    | some _, _ => s.setLine l { x with raw := high, timer := none }
    | none, some k =>
      if k = 0 then acceptLevel l s
      else s.setLine l { x with raw := high, timer := some (after s.time (2 * k.val)) }
    | none, none => s

/-- The level of pin LIN`l`. -/
def setPin (l : LineId) (high : Bool) (s : State) : State :=
  { s with pins := { s.pins with
      lin := if high then s.pins.lin ||| (1#32 <<< l.val) else s.pins.lin &&& ~~~(1#32 <<< l.val) } }

/-- RAW_LEVEL_CHANGE: the pin changes; while CRST is asserted the Line Qualifier takes no raw change (R30, R31, R39). -/
def execRawLevelChange (l : LineId) (high : Bool) (s : State) : Host.Outcome State Fault Refusal :=
  if s.crst then .next (setPin l high s)
  else .next (judgeAttn (changeRaw l high (setPin l high s)))

/-- The expiry of line `l`'s timing (R32); an idle timer, or a deadline still ahead, leaves it without effect. -/
def expireSettle (l : LineId) (s : State) : State :=
  match (s.line l).timer with
  | some t => if reached s.time t then acceptLevel l s else s
  | none => s

/-- SETTLE_EXPIRY (R32). -/
def execSettleExpiry (l : LineId) (s : State) : Host.Outcome State Fault Refusal :=
  eventStep (.settleExpiry l) (expireSettle l) s

/-- One occurrence is reported if line `l` is asserted under a level trigger (R34, R36). -/
def reportIfAsserted (l : LineId) (s : State) : State :=
  if lineAsserted s l then s.send [.occurrenceReport l] else s

/-- ENABLE_REPORT: the image is set, and an asserted level line reports (R34). -/
def execEnableReport (l : LineId) (s : State) : Host.Outcome State Fault Refusal :=
  eventStep (.enableReport l) (fun s => reportIfAsserted l (s.setLine l { s.line l with image := true })) s

/-- DISABLE_REPORT: the image is cleared (R34). -/
def execDisableReport (l : LineId) (s : State) : Host.Outcome State Fault Refusal :=
  eventStep (.disableReport l) (fun s => s.setLine l { s.line l with image := false }) s

/-- COMPLETION_REPORT: an asserted level line is re-armed, whatever the image (R36). -/
def execCompletionReport (l : LineId) (s : State) : Host.Outcome State Fault Refusal :=
  eventStep (.completionReport l) (reportIfAsserted l) s

end Sys2Proof.Machine
end

