-- ==== Sys2Proof/Machine/LinkRows.lean ====
section
/-! DEFINITION. The rows of the link itself, FRAME_ERROR, BAD_COMMAND and EARLY_CHIP_SELECT_RELEASE (chapter 10), and the
tick of the Time Base (R170). -/

namespace Sys2Proof.Machine

/-- The answer to a corrupted frame: the received code's data bytes, 00h each (R176). -/
def frameErrorAnswer (code : Byte) : Answer := { status := .frameError, data := zeros (dataCount code) }

/-- A frame whose check byte fails is answered FRAME_ERROR: not executed, not stored, no other check (R176). -/
def takeFrameError (p : Port) (code : Byte) (args : List Byte) (check : Byte) (s : State) : State :=
  let q := s.port p
  s.setPort p { q with
    frame := some (.answering
      { command := code :: args ++ [check], response := driven p q (frameErrorAnswer code), awaiting := false, clocked := 0 }),
    frames := q.frames + 1 }

/-- FRAME_ERROR (R176). A check byte that matches, or a number of argument bytes that is not the code's, is no such event
and changes nothing (log 4). -/
def execFrameError (p : Port) (code : Byte) (args : List Byte) (check : Byte) (s : State) :
    Host.Outcome State Fault Refusal :=
  if takesFrames s p ∧ args.length = (argCount code).getD 0 ∧ check ≠ checkByte (code :: args) then
    .next (takeFrameError p code args check s)
  else .next s

/-- What BAD_COMMAND does (R177). -/
def badCommandBody : Body := fun s => (s, some { status := .badCommand, data := [] })

/-- BAD_COMMAND (R177). A recognised code is no such event and changes nothing (log 4). -/
def execBadCommand (p : Port) (code : Byte) (s : State) : Host.Outcome State Fault Refusal :=
  if (argCount code).isNone then frameStep (.badCommand p code) p .anyState badCommandBody s else .next s

/-- EARLY_CHIP_SELECT_RELEASE: the frame ends with nothing taken, executed or stored (R175). The release of a chip select
that was asserted through the port's reset lets the next frame begin, also when it comes during a chip reset, which has
already abandoned every frame (R137, log 15). While PnRST is asserted the port ignores its chip select. -/
def execEarlyChipSelectRelease (p : Port) (s : State) : Host.Outcome State Fault Refusal :=
  if (s.port p).inReset then .next s
  else .next (s.setPort p { s.port p with frame := none, csIgnored := false })

/-! ### The Time Base -/

/-- The settle timings that are due at time `now` (R32). -/
def dueSettles (now : Time) (s : State) : List Instr :=
  ((List.finRange 32).filter fun l => (s.line l).timer == some now).map .settleExpiry

/-- The offer's deadline, where the slot is OPEN. -/
def offerDeadline : OfferSlot → Option Time
  | .opened o => some o.deadline
  | _ => none

/-- The offers that are due at time `now` (R95). -/
def dueOffers (now : Time) (s : State) : List Instr :=
  ((List.finRange 16).filter fun k => offerDeadline (s.offer k) == some now).map .offerExpiry

/-- The service deadline, where the slot is HELD and has one. -/
def slotDeadline : ServiceSlot → Option Time
  | .held r => r.deadline
  | _ => none

/-- The service deadlines that are due at time `now` (R109). -/
def dueServices (now : Time) (s : State) : List Instr :=
  allPorts.flatMap fun p =>
    ((List.finRange 4).filter fun k => slotDeadline ((s.unit p).slot k) == some now).map (.serviceDeadlineExpiry p)

/-- TIME_BASE_TICK: the counter rises by one, modulo 2^32, and the deadlines it reaches fall due (R170, log 5). While CRST
is asserted it is held at 0 (R168). -/
def execTimeBaseTick (s : State) : Host.Outcome State Fault Refusal :=
  if s.crst then .next s
  else
    let now := s.time + 1#32
    .next ({ s with time := now }.send (dueSettles now s ++ dueOffers now s ++ dueServices now s))

end Sys2Proof.Machine
end

