-- ==== Sys2Proof/Machine/OfferOps.lean ====
section
/-! DEFINITION. What the Offer Arbiter does with the Offer List and the request list. -/

namespace Sys2Proof.Machine

/-- The sixteen slots of the Offer List, ascending. -/
def allOfferSlots : List SlotId := [0, 1, 2, 3, 4, 5, 6, 7, 8, 9, 10, 11, 12, 13, 14, 15]

/-- The lowest-numbered FREE slot (R84, R85). -/
def lowestFreeOffer (s : State) : Option SlotId := allOfferSlots.find? fun k => s.offer k = .free

/-- The slot is OPEN for an offer that satisfies a test. -/
def openIf (test : Offer → Bool) : OfferSlot → Option Offer
  | .opened o => if test o then some o else none
  | _ => none

/-- The OPEN slot whose offer satisfies a test, with the offer. -/
def findOffer (s : State) (test : Offer → Bool) : Option (SlotId × Offer) :=
  allOfferSlots.findSome? fun k => (openIf test (s.offer k)).map fun o => (k, o)

/-! ### The slot arbiter (R85) -/

/-- Whether a request is a RE-OFFER. -/
def isReOffer : RequestKind → Bool
  | .reOffer _ => true
  | .first => false

/-- Request `a` is granted before `b`, which arrived earlier (R85). -/
def grantedBefore (now : Time) (a b : Request) : Bool :=
  (isReOffer a.kind && !isReOffer b.kind) ||
  (isReOffer a.kind == isReOffer b.kind &&
    (decide (a.priority < b.priority) ||
      (a.priority == b.priority && decide (age now b.stamp < age now a.stamp))))

/-- The request that the slot arbiter chooses (R85). -/
def bestRequest (now : Time) : List Request → Option Request
  | [] => none
  | r :: rest =>
    match bestRequest now rest with
    | none => some r
    | some b => if grantedBefore now b r then some b else some r

/-- A slot becomes RESERVED for a request and the grant goes to the Source Table (R84). -/
def grantSlot (k : SlotId) (r : Request) (s : State) : State :=
  (s.setOffer k (.reserved r.source r.kind r.req)).send [.slotGrant k r.source r.kind r.req]

/-- The slot arbiter grants while a slot is FREE and a request waits, at most the given number of times (R85). -/
def arbitrate : Nat → State → State
  | 0, s => s
  | n + 1, s =>
    match lowestFreeOffer s, bestRequest s.time s.requests with
    | some k, some r => arbitrate n (grantSlot k r { s with requests := s.requests.erase r })
    | _, _ => s

/-- The slot arbiter runs (R85). -/
def runArbiter (s : State) : State := arbitrate s.requests.length s

/-- A slot becomes FREE, and the slot arbiter runs. -/
def freeSlot (k : SlotId) (s : State) : State := runArbiter (s.setOffer k .free)

/-- A slot request arrives (R84). -/
def takeRequest (r : Request) (s : State) : State :=
  match lowestFreeOffer s with
  | some k => grantSlot k r s
  | none => { s with requests := s.requests ++ [r] }

/-- A cancel arrives (R87). -/
def takeCancel (i : SourceId) (req : Nat) (s : State) : State :=
  { s with requests := s.requests.filter fun r => !(r.source == i && r.req == req) }

/-! ### Offers -/

/-- The identity of an offer's placements (R88). -/
def offerId (o : Offer) : EntryId := { source := o.source, kind := .offer o.round, ref := o.ref }

/-- The withdrawals to a set of candidates (R91, R96, R101). -/
def offerWithdrawals (o : Offer) (ports : PortSet) : List Instr :=
  (portsOf ports).map fun p => .withdrawalRequest p (offerId o)

/-- The offer that an open answer makes at time `now` under the offer window (R88, step 1). -/
def newOffer (now : Time) (window : Byte) (i : SourceId) (ref : Nat) (priority : Priority) (candidates excluded : PortSet) :
    Offer :=
  { source := i, ref := ref, round := 1 + (portsOf excluded).length, priority := priority, candidates := candidates,
    holders := 0#4, owed := candidates, opened := now, deadline := after now (window.toNat * 1000) }

/-- The offer opens in a RESERVED slot; in any other slot the answer has no effect (R86, R88). -/
def openOffer (k : SlotId) (o : Offer) (f : DeliveryFields) (s : State) : State :=
  match s.offer k with
  | .reserved _ _ _ =>
    (s.setOffer k (.opened o)).send
      ((portsOf o.candidates).map fun p => .placement p { id := offerId o, priority := o.priority, fields := f })
  | _ => s

/-- A decline frees a RESERVED slot; in any other slot it has no effect (R86). -/
def takeDecline (k : SlotId) (s : State) : State :=
  match s.offer k with
  | .reserved _ _ _ => freeSlot k s
  | _ => s

/-- An admission report of an OFFER placement (R89). -/
def takeOfferAdmission (i : SourceId) (p : Port) (round : Nat) (s : State) : State :=
  match findOffer s fun o => o.source == i && o.round == round && portIn p o.owed with
  | some (k, o) => s.setOffer k (.opened { o with owed := withoutPort o.owed p, holders := withPort o.holders p })
  | none => s

/-- A claim is taken: granted when an open offer of that source, batch and round has the port as a candidate (R90), with
the steps of R91; otherwise LOST (R92). -/
def takeClaim (p : Port) (i : SourceId) (ref round : Nat) (s : State) : State :=
  match findOffer s fun o => o.source == i && o.ref == ref && o.round == round && portIn p o.candidates with
  | some (k, o) =>
    freeSlot k (s.send
      ([.claimGranted i ref p, .claimAnswer p i ref round true] ++ offerWithdrawals o (withoutPort o.candidates p)))
  | none => s.send [.claimAnswer p i ref round false]

/-- The EXPIRED notice of the Offer Arbiter, to the source's owner if it names a port (R98). -/
def expiredByArbiter (s : State) (i : SourceId) : List Instr :=
  match (s.src i).owner with
  | some o => [.noticePosting o .expired (.source i)]
  | none => []

/-- The exclusion set of the batch that an offer is for, as the Source Table holds it (R96); empty where that batch has
ended (log 17). -/
def exclusionOf (s : State) (i : SourceId) (ref : Nat) : PortSet :=
  match (s.src i).batch with
  | some b => if b.ref = ref then b.excluded else 0#4
  | none => 0#4

/-- An offer closes as an expiry: withdrawals, outcome, report, notice (R96, R98, R100). -/
def expireOffer (k : SlotId) (o : Offer) (cause : ExpiryCause) (s : State) : State :=
  let usable := (usableFallback s (s.src o.source).routing (exclusionOf s o.source o.ref)).isSome
  freeSlot k (s.send
    (offerWithdrawals o o.candidates ++ [.expiryReport o.source o.ref usable cause] ++
      (if usable then [] else expiredByArbiter s o.source)))

/-- An offer's deadline (R95, R96). -/
def takeOfferExpiry (k : SlotId) (s : State) : State :=
  match s.offer k with
  | .opened o => if reached s.time o.deadline then expireOffer k o .deadline s else s
  | _ => s

/-- A candidate loss report (R99, R100). -/
def takeCandidateLoss (i : SourceId) (ref round : Nat) (p : Port) (s : State) : State :=
  match findOffer s fun o => o.source == i && o.ref == ref && o.round == round && portIn p o.candidates with
  | some (k, o) =>
    let o := { o with candidates := withoutPort o.candidates p, holders := withoutPort o.holders p,
                      owed := withoutPort o.owed p }
    let s := (s.setOffer k (.opened o)).send [.candidateLost i ref p]
    if o.candidates = 0#4 then expireOffer k o .lastCandidateLost s else s
  | none => s

/-- A close request: the offer closes with no report, no notice and no fallback (R101). -/
def takeClose (i : SourceId) (ref : Nat) (s : State) : State :=
  match findOffer s fun o => o.source == i && o.ref == ref with
  | some (k, o) => freeSlot k (s.send (offerWithdrawals o o.candidates))
  | none => s

end Sys2Proof.Machine
end

