-- ==== Sys2Proof/Machine/ObserveCommands.lean ====
section
/-! DEFINITION. The observation commands READ_LINES, READ_TIME, READ_OFFER and READ_IDENT (R41, R171, R104). -/

namespace Sys2Proof.Machine

/-- The settled levels as one value, bit n for LINn, 1 for high (R184). -/
def settledLevels (s : State) : BitVec 32 :=
  (List.finRange 32).foldl (fun w l => if (s.line l).settled then w ||| (1#32 <<< l.val) else w) 0#32

/-- What READ_LINES does (R41). -/
def readLinesBody : Body := fun s => readAnswer (bytes4 (settledLevels s)) s

/-- READ_LINES (R41). -/
def execReadLines (p : Port) (s : State) : Host.Outcome State Fault Refusal :=
  frameStep (.readLines p) p .observation readLinesBody s

/-- What READ_TIME does (R171). -/
def readTimeBody : Body := fun s => readAnswer (bytes4 s.time) s

/-- READ_TIME (R171). -/
def execReadTime (p : Port) (s : State) : Host.Outcome State Fault Refusal :=
  frameStep (.readTime p) p .observation readTimeBody s

/-- The fourteen data bytes of READ_OFFER (R104, R184). -/
def offerBytes : OfferSlot → List Byte
  | .free => [0#8, Config.noneByte] ++ zeros 12
  | .reserved i _ _ => [1#8, byteOf i.val] ++ zeros 12
  | .opened o =>
    [2#8, byteOf o.source.val, byteOf o.round, byteOf o.priority.val, setByte o.candidates,
      setByte o.holders ||| (setByte o.owed <<< 4)] ++ bytes4 o.opened ++ bytes4 o.deadline

/-- What READ_OFFER does (R104). -/
def readOfferBody (p : Port) (b : Byte) : Body := fun s =>
  match slotOf b with
  | none => refuse (.readOffer p b) .badArg s
  | some k => readAnswer (offerBytes (s.offer k)) s

/-- READ_OFFER (R104). -/
def execReadOffer (p : Port) (slot : Byte) (s : State) : Host.Outcome State Fault Refusal :=
  frameStep (.readOffer p slot) p .observation (readOfferBody p slot) s

/-- The six data bytes of READ_IDENT (R171, R184). -/
def identData (s : State) : List Byte :=
  bytes2 Config.vendorCode ++ bytes2 Config.partCode ++ [Config.revision, causeCode s.cause]

/-- What READ_IDENT does (R171). -/
def readIdentBody : Body := fun s => readAnswer (identData s) s

/-- READ_IDENT (R171). -/
def execReadIdent (p : Port) (s : State) : Host.Outcome State Fault Refusal :=
  frameStep (.readIdent p) p .observation readIdentBody s

end Sys2Proof.Machine
end

