-- ==== Sys2Proof/Machine/OfferRows.lean ====
section
/-! DEFINITION. The rows taken at the Offer Arbiter (chapter 5). -/

namespace Sys2Proof.Machine

/-- SLOT_REQUEST (R84). -/
def execSlotRequest (i : SourceId) (kind : RequestKind) (req : Nat) (priority : Priority) (stamp : Time) (s : State) :
    Host.Outcome State Fault Refusal :=
  eventStep (.slotRequest i kind req priority stamp)
    (takeRequest { source := i, kind := kind, req := req, priority := priority, stamp := stamp }) s

/-- SLOT_REQUEST_CANCEL (R87). -/
def execSlotRequestCancel (i : SourceId) (req : Nat) (s : State) : Host.Outcome State Fault Refusal :=
  eventStep (.slotRequestCancel i req) (takeCancel i req) s

/-- GRANT_OPEN (R88). -/
def execGrantOpen (k : SlotId) (i : SourceId) (ref : Nat) (priority : Priority) (candidates excluded : PortSet)
    (fields : DeliveryFields) (s : State) : Host.Outcome State Fault Refusal :=
  eventStep (.grantOpen k i ref priority candidates excluded fields)
    (fun s => openOffer k (newOffer s.time s.window i ref priority candidates excluded) fields s) s

/-- GRANT_DECLINE (R86). -/
def execGrantDecline (k : SlotId) (s : State) : Host.Outcome State Fault Refusal :=
  eventStep (.grantDecline k) (takeDecline k) s

/-- OFFER_ADMISSION_REPORT (R89). -/
def execOfferAdmissionReport (i : SourceId) (p : Port) (round : Nat) (s : State) : Host.Outcome State Fault Refusal :=
  eventStep (.offerAdmissionReport i p round) (takeOfferAdmission i p round) s

/-- CLAIM (R90 to R93). -/
def execClaim (p : Port) (i : SourceId) (ref round : Nat) (s : State) : Host.Outcome State Fault Refusal :=
  eventStep (.claim p i ref round) (takeClaim p i ref round) s

/-- CANDIDATE_LOSS (R99, R100). -/
def execCandidateLoss (i : SourceId) (ref round : Nat) (p : Port) (s : State) : Host.Outcome State Fault Refusal :=
  eventStep (.candidateLoss i ref round p) (takeCandidateLoss i ref round p) s

/-- CLOSE_REQUEST (R101). -/
def execCloseRequest (i : SourceId) (ref : Nat) (s : State) : Host.Outcome State Fault Refusal :=
  eventStep (.closeRequest i ref) (takeClose i ref) s

/-- OFFER_EXPIRY (R96). -/
def execOfferExpiry (k : SlotId) (s : State) : Host.Outcome State Fault Refusal :=
  eventStep (.offerExpiry k) (takeOfferExpiry k) s

end Sys2Proof.Machine
end

