-- ==== Sys2Proof/Machine/QueueCommands.lean ====
section
/-! DEFINITION. The commands taken at the Delivery Unit: PEEK, TAKE, DONE, HOLD, RESUME, SET_MASK, SET_GATE, SET_LIMIT and
READ_SLOTS (chapters 4 and 6). -/

namespace Sys2Proof.Machine

/-- The answer with the empty record: EMPTY when nothing is visible (R68), SLOTS_FULL (R71, R72). -/
def emptyAnswer (st : Status) : Answer := { status := st, data := emptyRecord Config.noneByte }

/-- The answer that hands over or shows a notice (R70, R77). -/
def noticeAnswer (n : Notice) : Answer := { status := .ok, data := noticeRecord n }

/-! ### PEEK -/

/-- The answer of PEEK (R68). -/
def peekAnswer (d : DeliveryUnit) : Answer :=
  match firstVisible d with
  | none => emptyAnswer .empty
  | some (.notice n) => noticeAnswer n
  | some (.entry e) => { status := .ok, data := deliveryRecord (entryKindCode e.id.kind) e.id.source 0#8 e.fields }

/-- What PEEK does (R68). -/
def peekBody (p : Port) : Body := fun s => (s, some (peekAnswer (s.unit p)))

/-- PEEK (R68). -/
def execPeek (p : Port) (s : State) : Host.Outcome State Fault Refusal :=
  frameStep (.peek p) p .session (peekBody p) s

/-! ### TAKE -/

/-- A notice is handed over and its slot emptied (R70). -/
def takeNoticeItem (p : Port) (n : Notice) (s : State) : State × Option Answer :=
  let d := s.unit p
  (s.setUnit p { d with notices := d.notices.erase n, gateOpen := gateAfterTake d }, some (noticeAnswer n))

/-- A DIRECT, BROADCAST or FALLBACK entry passes into the free service slot `k` (R71). -/
def takeDelivery (p : Port) (k : ServiceSlotId) (kind : Form) (e : Placement) (s : State) : State × Option Answer :=
  let d := s.unit p
  let n := assignedSeq d
  let d := enterService s.time k kind e { d with entries := d.entries.erase e }
  let s := (s.setUnit p d).send [.takenReport e.id.source p e.id.ref n]
  (runAdmission p s, some { status := .ok, data := deliveryRecord (formCode kind) e.id.source n e.fields })

/-- An OFFER entry is claimed: the free service slot `k` is reserved and the TAKE waits for the answer (R72). -/
def takeOffer (p : Port) (k : ServiceSlotId) (round : Nat) (e : Placement) (s : State) : State × Option Answer :=
  let d := s.unit p
  let d := { d.setSlot k (.reserved e.id) with
    entries := d.entries.erase e,
    claims := d.claims ++ [{ entry := e, slot := k, removal := false, ended := false }] }
  let s := (s.setUnit p d).send [.claim p e.id.source e.id.ref round]
  let s := runAdmission p s
  (s.setPort p { s.port p with running := some e.id }, none)

/-- What TAKE does (R70 to R72). -/
def takeBody (p : Port) : Body := fun s =>
  match firstVisible (s.unit p) with
  | none => (s, some (emptyAnswer .empty))
  | some (.notice n) => takeNoticeItem p n s
  | some (.entry e) =>
    match lowestFreeSlot (s.unit p) with
    | none => (s, some (emptyAnswer .slotsFull))
    | some k =>
      match e.id.kind with
      | .direct => takeDelivery p k .direct e s
      | .broadcast => takeDelivery p k .broadcast e s
      | .fallback => takeDelivery p k .fallback e s
      | .offer round => takeOffer p k round e s

/-- TAKE (R70). -/
def execTake (p : Port) (s : State) : Host.Outcome State Fault Refusal :=
  frameStep (.take p) p .session (takeBody p) s

/-! ### DONE -/

/-- What DONE does: OK for a HELD delivery (R110), LATE for a number in the revoked list, otherwise NOT_HELD (R111). -/
def doneBody (p : Port) (seq : Byte) : Body := fun s =>
  let d := s.unit p
  match findHeld d fun r => r.seq == seq with
  | some (k, r) => accept ((s.setUnit p (d.setSlot k .free)).send [.doneReport r.source p r.ref])
  | none =>
    if d.revoked.contains seq then
      (s.setUnit p { d with revoked := d.revoked.erase seq }, some { status := .late, data := [] })
    else refuse (.doneSeq p seq) .notHeld s

/-- DONE (R110, R111). -/
def execDoneSeq (p : Port) (seq : Byte) (s : State) : Host.Outcome State Fault Refusal :=
  frameStep (.doneSeq p seq) p .session (doneBody p seq) s

/-! ### Settings -/

/-- What HOLD does (R78). -/
def holdBody (p : Port) : Body := fun s => accept (s.setUnit p { s.unit p with gateOpen := false })

/-- HOLD (R78). -/
def execHold (p : Port) (s : State) : Host.Outcome State Fault Refusal :=
  frameStep (.hold p) p .session (holdBody p) s

/-- What RESUME does (R78). -/
def resumeBody (p : Port) : Body := fun s => accept (s.setUnit p { s.unit p with gateOpen := true })

/-- RESUME (R78). -/
def execResume (p : Port) (s : State) : Host.Outcome State Fault Refusal :=
  frameStep (.resume p) p .session (resumeBody p) s

/-- What SET_MASK does (R61). -/
def setMaskBody (p : Port) (mask : Byte) : Body := fun s => accept (s.setUnit p { s.unit p with mask := mask })

/-- SET_MASK (R61). -/
def execSetMask (p : Port) (mask : Byte) (s : State) : Host.Outcome State Fault Refusal :=
  frameStep (.setMask p mask) p .session (setMaskBody p mask) s

/-- What SET_GATE does (R79). -/
def setGateBody (p : Port) (mode : Byte) : Body := fun s =>
  if mode = 0#8 then accept (s.setUnit p { s.unit p with gateOnTake := false })
  else if mode = 1#8 then accept (s.setUnit p { s.unit p with gateOnTake := true })
  else refuse (.setGate p mode) .badArg s

/-- SET_GATE (R79). -/
def execSetGate (p : Port) (mode : Byte) (s : State) : Host.Outcome State Fault Refusal :=
  frameStep (.setGate p mode) p .session (setGateBody p mode) s

/-- What SET_LIMIT does (R108). -/
def setLimitBody (p : Port) (ms : Word) : Body := fun s =>
  if ms.toNat ≤ Config.maxLimit then accept (s.setUnit p { s.unit p with limit := ms })
  else refuse (.setLimit p ms) .badArg s

/-- SET_LIMIT (R108). -/
def execSetLimit (p : Port) (ms : Word) (s : State) : Host.Outcome State Fault Refusal :=
  frameStep (.setLimit p ms) p .session (setLimitBody p ms) s

/-! ### READ_SLOTS -/

/-- The twelve bytes of one service slot (R122, R184). -/
def slotBytes : ServiceSlot → List Byte
  | .free => [0#8, 0#8, Config.noneByte, 0#8] ++ zeros 8
  | .reserved id => [1#8, 0#8, byteOf id.source.val, 0#8] ++ zeros 8
  | .held r =>
    [2#8 ||| flagBit r.deadline.isSome 7, r.seq, byteOf r.source.val, formCode r.kind] ++ bytes4 r.taken ++
    bytes4 (r.deadline.getD 0#32)

/-- The 54 data bytes of READ_SLOTS (R122, R184). -/
def slotsData (d : DeliveryUnit) : List Byte :=
  allServiceSlots.flatMap (fun k => slotBytes (d.slot k)) ++ padTo 4 d.revoked ++ bytes2 d.limit

/-- What READ_SLOTS does (R122). -/
def readSlotsBody (p : Port) : Body := fun s => readAnswer (slotsData (s.unit p)) s

/-- READ_SLOTS (R122). -/
def execReadSlots (p : Port) (s : State) : Host.Outcome State Fault Refusal :=
  frameStep (.readSlots p) p .observation (readSlotsBody p) s

end Sys2Proof.Machine
end

