-- ==== Sys2Proof/Machine/Reset.lean ====
section
/-! DEFINITION. Power-up, chip reset and the port reset (sections 7.4 and 9.6). -/

namespace Sys2Proof.Machine

/-- The steering port that the straps name (R157). -/
def steeringOf (ssel : BitVec 3) : Option Port := if h : ssel.toNat < 4 then some ⟨ssel.toNat, h⟩ else none

/-- The run state that follows from the steering port as power-up and chip reset end (R156). -/
def resetRunState : Option Port → RunState
  | some _ => .stopped
  | none => .running

/-- The part with every block at its power-up values, given the straps, the line pins, the records, the lines, the port
resets, the chip selects still to be ignored and the cause (R167, R169). A port's count of frames goes on (log 7). -/
def freshPart (s : State) (ssel : BitVec 3) (lin : BitVec 32) (sources : Vector Source 48) (lines : Vector Line 32)
    (inReset csIgnored : Port → Bool) (crst powerHold : Bool) (cause : ResetCause) : State :=
  { pins := { lin := lin, ssel := ssel }, crst := crst, powerHold := powerHold, time := 0#32,
    steering := steeringOf ssel, runState := resetRunState (steeringOf ssel), window := Config.resetWindow,
    cause := cause, lines := lines, sources := sources, poolFree := Config.poolCells,
    offers := Vector.replicate 16 .free, requests := [], units := Vector.replicate 4 powerUpUnit,
    ports := Vector.ofFn fun p : Fin 4 =>
      { powerUpPort (inReset p) with frames := (s.port p).frames, csIgnored := csIgnored p },
    attn := 0#4, inFlight := [], handed := [], released := false,
    link := s.link, pending := s.pending }

/-- POWER_UP: power-up ends with the straps, the line pins, CRST and the port resets at the given levels (R167, R38).
References go on from those already given (log 10). -/
def execPowerUp (ssel : BitVec 3) (lin : BitVec 32) (crst : Bool) (prst : PortSet) (s : State) :
    Host.Outcome State Fault Refusal :=
  .next (freshPart s ssel lin
    (Vector.ofFn fun i : Fin 48 => freshSource (powerUpRouting i) (s.src i).nextRef (s.src i).nextRequest)
    (Vector.ofFn fun l : Fin 32 => powerUpLine (lin.getLsbD l.val))
    (portIn · prst) (fun _ => false) crst crst .power)

/-- A port's record when CRST or PnRST abandons its frame, its running command and those that wait (R168, R136). -/
def abandonFrame (q : PortRecord) : PortRecord := { q with frame := none, running := none, held := [] }

/-- CRST_ASSERT: from the assertion to the release the counter is held at 0, timings, frames and everything on its way
between blocks are abandoned, and every ATTN is released (R168, R39, R80). -/
def execCrstAssert (s : State) : Host.Outcome State Fault Refusal :=
  if s.crst then .next s
  else .next (judgeAttn
    { s with
      crst := true, time := 0#32, inFlight := [], handed := [],
      lines := s.lines.map fun x => { x with timer := none },
      ports := s.ports.map abandonFrame })

/-- A source record as chip reset ends (R3, R169). -/
def sourceAfterChipReset (i : SourceId) (r : Source) : Source :=
  if r.lock then
    { freshSource r.routing r.nextRef r.nextRequest with
      owner := r.owner, lock := r.lock, enable := r.enable, state := if r.enable then .idle else .off }
  else freshSource (powerUpRouting i) r.nextRef r.nextRequest

/-- A line as chip reset ends, its pin at the given level (R39). -/
def lineAfterChipReset (high : Bool) (r : Source) : Line :=
  { powerUpLine high with image := r.lock && r.enable }

/-- The occurrences that the Line Qualifier reports as chip reset ends (R39). -/
def chipResetOccurrences (s : State) : List Instr :=
  ((List.finRange 32).filter fun l => (s.line l).image && lineAsserted s l).map .occurrenceReport

/-- CRST_RELEASE: chip reset ends (R169, R39, R3). A release after a power-up under CRST leaves cause POWER (R167, log 13). -/
def execCrstRelease (ssel : BitVec 3) (s : State) : Host.Outcome State Fault Refusal :=
  if s.crst then
    let t := freshPart s ssel s.pins.lin
      (Vector.ofFn fun i : Fin 48 => sourceAfterChipReset i (s.src i))
      (Vector.ofFn fun l : Fin 32 => lineAfterChipReset (s.pins.lin.getLsbD l.val) (s.src (sourceOfLine l)))
      (fun p => (s.port p).inReset) (fun p => (s.port p).csIgnored) false false (if s.powerHold then .power else .chip)
    .next (t.send (chipResetOccurrences t))
  else .next s

/-- The settings of a Delivery Unit that PnRST restores (R136, step 3). -/
def resetSettings (d : DeliveryUnit) : DeliveryUnit :=
  { d with mask := 0xFF#8, gateOpen := true, gateOnTake := false, limit := 0#16 }

/-- The four steps of an assertion of PnRST (R136). -/
def resetPort (p : Port) (s : State) : State :=
  let s := s.setPort p { abandonFrame (s.port p) with inReset := true, csIgnored := false }
  let s := { s with handed := s.handed.filter fun c => !(framePort c == some p) }
  let s := leaveSession p .detached s
  let s := s.setUnit p (resetSettings (s.unit p))
  s.setPort p { s.port p with store := none, tag := 0#16 }

/-- PNRST_ASSERT (R136). During chip reset only the pin is seen: the chip reset sets the rest (R168, log 14). -/
def execPnrstAssert (p : Port) (s : State) : Host.Outcome State Fault Refusal :=
  if s.crst then .next (s.setPort p { s.port p with inReset := true })
  else .next (judgeAttn (resetPort p s))

/-- PNRST_RELEASE: the port takes frames again; a chip select already asserted is ignored until it is released (R137, log 15). -/
def execPnrstRelease (p : Port) (chipSelected : Bool) (s : State) : Host.Outcome State Fault Refusal :=
  if (s.port p).inReset then .next (s.setPort p { s.port p with inReset := false, csIgnored := chipSelected })
  else .next s

end Sys2Proof.Machine
end

