-- ==== Sys2Proof/Machine/SourceReports.lean ====
section
/-! DEFINITION. The rows taken at the Source Table: occurrences, reports, grants (sections 1.4 to 1.7). A report that
finds its copy in a state of which no rule speaks is ignored (log 16). -/

namespace Sys2Proof.Machine

/-- The batch of source `i` that has the reference, if it has not ended. -/
def batchOf (s : State) (i : SourceId) (ref : Nat) : Option Batch :=
  match (s.src i).batch with
  | some b => if b.ref = ref then some b else none
  | none => none

/-- The state of port `p`'s copy of the batch with that reference; NONE when the batch has ended. -/
def copyOf (s : State) (i : SourceId) (p : Port) (ref : Nat) : CopyState :=
  match batchOf s i ref with
  | some b => b.copy p
  | none => .noCopy

/-- The batch with that reference changed by `f`, if it has not ended. -/
def changeBatch (i : SourceId) (ref : Nat) (f : Batch → Batch) (s : State) : State :=
  match batchOf s i ref with
  | some b => setBatch i (f b) s
  | none => s

/-- OCCURRENCE_REPORT (R8). -/
def execOccurrenceReport (l : LineId) (s : State) : Host.Outcome State Fault Refusal :=
  eventStep (.occurrenceReport l) (occurrence (sourceOfLine l)) s

/-- An admitted report: an OWED copy becomes QUEUED; otherwise it is ignored (R16, R17). That of an offer placement finds an
OFFERED copy, or, after its offer has become FALLBACK for that very port, the OWED one: DESIGN CHOICE (log 22). -/
def applyAdmitted (i : SourceId) (p : Port) (ref : Nat) (s : State) : State :=
  match copyOf s i p ref with
  | .owed => changeBatch i ref (·.setCopy p .queued) s
  | _ => s

/-- ADMITTED_REPORT (R16). -/
def execAdmittedReport (i : SourceId) (p : Port) (ref : Nat) (s : State) : Host.Outcome State Fault Refusal :=
  eventStep (.admittedReport i p ref) (applyAdmitted i p ref) s

/-- A taken report: a QUEUED copy becomes IN_SERVICE; a delivery whose copy was withdrawn is removed from its slot
(R16, R17). -/
def applyTaken (i : SourceId) (p : Port) (ref : Nat) (s : State) : State :=
  match copyOf s i p ref with
  | .queued => changeBatch i ref (·.setCopy p .inService) s
  | .noCopy => s.send [.removalRequest p i ref]
  | _ => s

/-- TAKEN_REPORT (R16, R17). -/
def execTakenReport (i : SourceId) (p : Port) (ref : Nat) (seq : Byte) (s : State) :
    Host.Outcome State Fault Refusal :=
  eventStep (.takenReport i p ref seq) (applyTaken i p ref) s

/-- A done report: an IN_SERVICE copy becomes DONE, and the batch is checked (R16, R22, R27). -/
def applyDone (i : SourceId) (p : Port) (ref : Nat) (s : State) : State :=
  match copyOf s i p ref with
  | .inService => checkBatch i (changeBatch i ref (·.setCopy p .done) s)
  | _ => s

/-- DONE_REPORT (R16). -/
def execDoneReport (i : SourceId) (p : Port) (ref : Nat) (s : State) : Host.Outcome State Fault Refusal :=
  eventStep (.doneReport i p ref) (applyDone i p ref) s

/-- A withdrawal report, by the form of the batch (R18). The report does not say whether an OFFER entry or a FALLBACK one was
withdrawn: DESIGN CHOICE (log 22), that of an OFFER entry, which R130 has the Source Table not act on, acts too where the
offer's batch has become FALLBACK with a copy OWED or QUEUED at that very port. -/
def applyWithdrawal (i : SourceId) (p : Port) (ref : Nat) (s : State) : State :=
  match batchOf s i ref with
  | none => s
  | some b =>
    if (s.src i).state = .active ∧ (b.copy p = .owed ∨ b.copy p = .queued) then
      match b.form with
      | .direct | .fallback => returnToPending i .returned (b.setCopy p .noCopy) s
      | .broadcast => checkBatch i (setBatch i (b.setCopy p .done) s)
      | .shared => s
    else s

/-- WITHDRAWAL_REPORT (R18). -/
def execWithdrawalReport (i : SourceId) (p : Port) (ref : Nat) (s : State) : Host.Outcome State Fault Refusal :=
  eventStep (.withdrawalReport i p ref) (applyWithdrawal i p ref) s

/-- The revocation of a SHARED copy of an ACTIVE source: the port is excluded, and the batch is re-offered or, without a
candidate, goes on as R21 says. -/
def revokeShared (i : SourceId) (p : Port) (b : Batch) (s : State) : State :=
  let b := { b.setCopy p .noCopy with excluded := withPort b.excluded p }
  let s := setBatch i b s
  if candidatesOf s (s.src i).routing.targets b.excluded = 0#4 then noReOffer i b s
  else requestSlot i (.reOffer b.ref) b.stamp s

/-- A revoked report, by the form of the batch and the state of the source (R21). -/
def applyRevoked (i : SourceId) (p : Port) (ref : Nat) (s : State) : State :=
  match batchOf s i ref with
  | none => s
  | some b =>
    if b.copy p = .inService then
      match (s.src i).state with
      | .draining => checkBatch i (setBatch i (b.setCopy p .noCopy) s)
      | .active =>
        match b.form with
        | .shared => revokeShared i p b s
        | .direct | .fallback => returnToPending i .revoked (b.setCopy p .noCopy) s
        | .broadcast => checkBatch i (setBatch i (b.setCopy p .done) s)
      | _ => s
    else s

/-- REVOKED_REPORT (R21). -/
def execRevokedReport (i : SourceId) (p : Port) (ref : Nat) (kind : Form) (s : State) :
    Host.Outcome State Fault Refusal :=
  eventStep (.revokedReport i p ref kind) (applyRevoked i p ref) s

/-- A claim-granted report: the winner's copy is IN_SERVICE, the other candidates' NONE, and the offer is gone; a grant of
a copy already given up is removed from its slot (R19, R94). -/
def applyGranted (i : SourceId) (ref : Nat) (p : Port) (s : State) : State :=
  match copyOf s i p ref with
  | .offered =>
    changeBatch i ref (fun b =>
      { mapCopies (fun q c => if q = p then .inService else if c = .offered then .noCopy else c) b with
        offer := none }) s
  | .noCopy => s.send [.removalRequest p i ref]
  | _ => s

/-- CLAIM_GRANTED (R19, R94). -/
def execClaimGranted (i : SourceId) (ref : Nat) (p : Port) (s : State) : Host.Outcome State Fault Refusal :=
  eventStep (.claimGranted i ref p) (applyGranted i ref p) s

/-- A candidate-lost report: the copy is NONE and the port is not excluded (R19). -/
def applyLost (i : SourceId) (ref : Nat) (p : Port) (s : State) : State :=
  match copyOf s i p ref with
  | .offered => changeBatch i ref (·.setCopy p .noCopy) s
  | _ => s

/-- CANDIDATE_LOST (R19). -/
def execCandidateLost (i : SourceId) (ref : Nat) (p : Port) (s : State) : Host.Outcome State Fault Refusal :=
  eventStep (.candidateLost i ref p) (applyLost i ref p) s

/-- An expiry report for the open offer of a batch: the offer and its copies are gone, and the batch becomes FALLBACK or is
discarded (R20). A report for a batch that has ended is ignored (R101). -/
def applyExpiry (i : SourceId) (ref : Nat) (converted : Bool) (s : State) : State :=
  match batchOf s i ref with
  | none => s
  | some b =>
    if b.offer.isSome then
      let b := { mapCopies (fun _ c => if c = .offered then .noCopy else c) b with offer := none }
      let s := setBatch i b s
      match converted, (s.src i).routing.fallback with
      | true, some f => convertToFallback i b f s
      | _, _ => discardExpired i s
    else s

/-- EXPIRY_REPORT (R20). The outcome is the same for both causes. -/
def execExpiryReport (i : SourceId) (ref : Nat) (converted : Bool) (cause : ExpiryCause) (s : State) :
    Host.Outcome State Fault Refusal :=
  eventStep (.expiryReport i ref converted cause) (applyExpiry i ref converted) s

/-- The Source Table answers a grant with open: the copies of the candidates are OFFERED, the slot is the offer reference,
and the batch's values go to the Offer Arbiter (R15, R88 step 2). R88 gives the reference as the offer opens, at GRANT_OPEN,
and R15 as the grant is answered: DESIGN CHOICE (log 21), the reference and the OFFERED copies stand from the answer on, while
the slot is still RESERVED. -/
def openAnswer (k : SlotId) (i : SourceId) (b : Batch) (candidates : PortSet) (s : State) : State :=
  let b' := { mapCopies (fun p c => if portIn p candidates then .offered else c) b with offer := some k }
  (setBatch i b' s).send [.grantOpen k i b.ref b.priority candidates b.excluded (fieldsOf b)]

/-- The grant of a first offer (R15). It forms the batch, and reads the ports as an attempt does (R127, log 19). The source's
standing request has been cleared. -/
def grantFirst (k : SlotId) (i : SourceId) (s : State) : State :=
  let r := s.src i
  if r.state = .waiting ∧ s.runState = .running ∧ pendingCount r ≠ 0 then
    let candidates := seenOf s r.routing.targets
    if candidates = 0#4 then attemptFallback i (s.send [.grantDecline k])
    else
      let b := newBatch r .shared
      openAnswer k i b candidates (s.setSrc i (formed r b))
  else s.send [.grantDecline k]

/-- The grant of a re-offer (R15, R102). The source's standing request has been cleared. -/
def grantReOffer (k : SlotId) (i : SourceId) (ref : Nat) (s : State) : State :=
  match batchOf s i ref with
  | none => s.send [.grantDecline k]
  | some b =>
    let candidates := candidatesOf s (s.src i).routing.targets b.excluded
    if candidates = 0#4 then noReOffer i b (s.send [.grantDecline k]) else openAnswer k i b candidates s

/-- A grant reaches the Source Table; one that does not name the standing request is declined (R15). -/
def applyGrant (k : SlotId) (i : SourceId) (kind : RequestKind) (req : Nat) (s : State) : State :=
  if (s.src i).slotRequest = some req then
    let s := s.setSrc i { s.src i with slotRequest := none }
    match kind with
    | .first => grantFirst k i s
    | .reOffer ref => grantReOffer k i ref s
  else s.send [.grantDecline k]

/-- SLOT_GRANT (R15). -/
def execSlotGrant (k : SlotId) (i : SourceId) (kind : RequestKind) (req : Nat) (s : State) :
    Host.Outcome State Fault Refusal :=
  eventStep (.slotGrant k i kind req) (applyGrant k i kind req) s

/-- ATTACH_REPORT: an attempt for each WAITING source that names the port (R127, R10). -/
def execAttachReport (p : Port) (s : State) : Host.Outcome State Fault Refusal :=
  eventStep (.attachReport p)
    (attemptWhere fun r => r.state == .waiting && (portIn p r.routing.targets || r.routing.fallback == some p)) s

/-- RUN_REPORT: an attempt for each WAITING source (R158, R10). -/
def execRunReport (s : State) : Host.Outcome State Fault Refusal :=
  eventStep .runReport (attemptWhere fun r => r.state == .waiting) s

end Sys2Proof.Machine
end

