-- ==== Sys2Proof/Machine/UnitRows.lean ====
section
/-! DEFINITION. The message and deadline rows taken at a Delivery Unit (chapters 4 and 6). -/

namespace Sys2Proof.Machine

/-- PLACEMENT (R62 to R65). -/
def execPlacement (p : Port) (e : Placement) (s : State) : Host.Outcome State Fault Refusal :=
  eventStep (.placement p e) (takePlacement p e) s

/-- WITHDRAWAL_REQUEST (R66). -/
def execWithdrawalRequest (p : Port) (id : EntryId) (s : State) : Host.Outcome State Fault Refusal :=
  eventStep (.withdrawalRequest p id) (takeWithdrawal p id) s

/-- NOTICE_POSTING (R75). -/
def execNoticePosting (p : Port) (kind : NoticeKind) (subject : Subject) (s : State) :
    Host.Outcome State Fault Refusal :=
  eventStep (.noticePosting p kind subject) (takeNotice p kind subject) s

/-- REMOVAL_REQUEST (R116). -/
def execRemovalRequest (p : Port) (i : SourceId) (ref : Nat) (s : State) : Host.Outcome State Fault Refusal :=
  eventStep (.removalRequest p i ref) (takeRemoval p i ref) s

/-- SERVICE_DEADLINE_EXPIRY (R113). -/
def execServiceDeadlineExpiry (p : Port) (k : ServiceSlotId) (s : State) : Host.Outcome State Fault Refusal :=
  eventStep (.serviceDeadlineExpiry p k) (expireService p k) s

/-! ### The answer to a claim (R72, R73, R117) -/

/-- The answer to a TAKE whose claim was granted: the record of kind SHARED with the assigned number (R72). -/
def grantAnswer (e : Placement) (seq : Byte) : Answer :=
  { status := .ok, data := deliveryRecord (formCode .shared) e.id.source seq e.fields }

/-- The answer to a TAKE whose claim was lost (R72). -/
def lostAnswer (e : Placement) : Answer := { status := .lost, data := emptyRecord (byteOf e.id.source.val) }

/-- The TAKE of port `p` that waited for its claim is answered, and the port goes on (R174). -/
def settleTake (p : Port) (id : EntryId) (a : Answer) (s : State) : State :=
  if (s.port p).running = some id then
    let s := answer (.take p) p a s
    handNext p (s.setPort p { s.port p with running := none })
  else s

/-- The frame in progress, no longer awaiting its answer: it keeps its fill (R180). -/
def notAwaiting : LinkFrame → LinkFrame
  | .answering f => .answering { f with awaiting := false }
  | x => x

/-- The frame of a TAKE whose claim was answered after an EVICT: the store says EVICTED and the frame keeps its fill
(R180). -/
def settleEvicted (p : Port) (id : EntryId) (s : State) : State :=
  let q := s.port p
  if q.running = some id then
    handNext p (s.setPort p
      { q with
        running := none,
        store := some { code := codeOf (.take p), args := [], status := .evicted, data := zeros 11 },
        frame := if q.held.isEmpty then q.frame.map notAwaiting else q.frame })
  else s

/-- The answer of a claim of an ended session: the reservation is released, and a grant is reported revoked (R73). -/
def answerEnded (p : Port) (c : Claim) (granted : Bool) (s : State) : State :=
  let d := s.unit p
  let s := s.setUnit p (d.setSlot c.slot .free)
  let s := if granted then s.send [.revokedReport c.entry.id.source p c.entry.id.ref .shared] else s
  settleEvicted p c.entry.id s

/-- A LOST answer (R72, R117). -/
def answerLost (p : Port) (c : Claim) (s : State) : State :=
  settleTake p c.entry.id (lostAnswer c.entry) (s.setUnit p ((s.unit p).setSlot c.slot .free))

/-- A GRANT answer (R72, R107). -/
def answerGranted (p : Port) (c : Claim) (s : State) : State :=
  let d := s.unit p
  settleTake p c.entry.id (grantAnswer c.entry (assignedSeq d))
    (s.setUnit p (enterService s.time c.slot .shared c.entry d))

/-- A GRANT answer that meets a removal waiting for it: the number goes straight to the revoked list (R117). -/
def answerRemoved (p : Port) (c : Claim) (s : State) : State :=
  let d := s.unit p
  let n := assignedSeq d
  settleTake p c.entry.id (grantAnswer c.entry n)
    (s.setUnit p { d.setSlot c.slot .free with
      seq := n, gateOpen := gateAfterTake d, revoked := enterRevoked d.revoked n })

/-- The Offer Arbiter's answer reaches the Delivery Unit: the claim of that identity leaves the claims in flight and is
handled by its marks (R72). -/
def takeAnswer (p : Port) (i : SourceId) (ref round : Nat) (granted : Bool) (s : State) : State :=
  let d := s.unit p
  let id : EntryId := { source := i, kind := .offer round, ref := ref }
  match d.claims.find? (·.entry.id = id) with
  | none => s
  | some c =>
    let s := s.setUnit p { d with claims := d.claims.erase c }
    if c.ended then answerEnded p c granted s
    else if granted then (if c.removal then answerRemoved p c s else answerGranted p c s)
    else answerLost p c s

/-- CLAIM_ANSWER (R72, R73, R117, R180). -/
def execClaimAnswer (p : Port) (i : SourceId) (ref round : Nat) (granted : Bool) (s : State) :
    Host.Outcome State Fault Refusal :=
  eventStep (.claimAnswer p i ref round granted) (takeAnswer p i ref round granted) s

end Sys2Proof.Machine
end

