-- ==== Sys2Proof/Machine/Dispatch.lean ====
section
/-! DEFINITION. One arm for each command: its meaning. -/

namespace Sys2Proof.Machine

/-- The effect of a command on everything but the queue of waiting commands. -/
def exec (i : Instr) (s : State) : Host.Outcome State Fault Refusal :=
  match i with
  | .powerUp ssel lin crst prst => Sys2Proof.Machine.execPowerUp ssel lin crst prst s
  | .crstAssert => Sys2Proof.Machine.execCrstAssert s
  | .crstRelease ssel => Sys2Proof.Machine.execCrstRelease ssel s
  | .pnrstAssert p => Sys2Proof.Machine.execPnrstAssert p s
  | .pnrstRelease p chipSelected => Sys2Proof.Machine.execPnrstRelease p chipSelected s
  | .rawLevelChange l high => Sys2Proof.Machine.execRawLevelChange l high s
  | .settleExpiry l => Sys2Proof.Machine.execSettleExpiry l s
  | .enableReport l => Sys2Proof.Machine.execEnableReport l s
  | .disableReport l => Sys2Proof.Machine.execDisableReport l s
  | .completionReport l => Sys2Proof.Machine.execCompletionReport l s
  | .occurrenceReport l => Sys2Proof.Machine.execOccurrenceReport l s
  | .admittedReport j p ref => Sys2Proof.Machine.execAdmittedReport j p ref s
  | .takenReport j p ref seq => Sys2Proof.Machine.execTakenReport j p ref seq s
  | .doneReport j p ref => Sys2Proof.Machine.execDoneReport j p ref s
  | .withdrawalReport j p ref => Sys2Proof.Machine.execWithdrawalReport j p ref s
  | .revokedReport j p ref kind => Sys2Proof.Machine.execRevokedReport j p ref kind s
  | .claimGranted j ref p => Sys2Proof.Machine.execClaimGranted j ref p s
  | .candidateLost j ref p => Sys2Proof.Machine.execCandidateLost j ref p s
  | .expiryReport j ref converted cause => Sys2Proof.Machine.execExpiryReport j ref converted cause s
  | .slotGrant k j kind req => Sys2Proof.Machine.execSlotGrant k j kind req s
  | .attachReport p => Sys2Proof.Machine.execAttachReport p s
  | .runReport => Sys2Proof.Machine.execRunReport s
  | .slotRequest j kind req priority stamp => Sys2Proof.Machine.execSlotRequest j kind req priority stamp s
  | .slotRequestCancel j req => Sys2Proof.Machine.execSlotRequestCancel j req s
  | .grantOpen k j ref priority candidates excluded fields => Sys2Proof.Machine.execGrantOpen k j ref priority candidates excluded fields s
  | .grantDecline k => Sys2Proof.Machine.execGrantDecline k s
  | .offerAdmissionReport j p round => Sys2Proof.Machine.execOfferAdmissionReport j p round s
  | .claim p j ref round => Sys2Proof.Machine.execClaim p j ref round s
  | .candidateLoss j ref round p => Sys2Proof.Machine.execCandidateLoss j ref round p s
  | .closeRequest j ref => Sys2Proof.Machine.execCloseRequest j ref s
  | .offerExpiry k => Sys2Proof.Machine.execOfferExpiry k s
  | .placement p e => Sys2Proof.Machine.execPlacement p e s
  | .withdrawalRequest p id => Sys2Proof.Machine.execWithdrawalRequest p id s
  | .noticePosting p kind subject => Sys2Proof.Machine.execNoticePosting p kind subject s
  | .removalRequest p j ref => Sys2Proof.Machine.execRemovalRequest p j ref s
  | .claimAnswer p j ref round granted => Sys2Proof.Machine.execClaimAnswer p j ref round granted s
  | .serviceDeadlineExpiry p k => Sys2Proof.Machine.execServiceDeadlineExpiry p k s
  | .status p => Sys2Proof.Machine.execStatus p s
  | .attach p tag => Sys2Proof.Machine.execAttach p tag s
  | .detach p => Sys2Proof.Machine.execDetach p s
  | .repeatLast p => Sys2Proof.Machine.execRepeatLast p s
  | .peek p => Sys2Proof.Machine.execPeek p s
  | .take p => Sys2Proof.Machine.execTake p s
  | .doneSeq p seq => Sys2Proof.Machine.execDoneSeq p seq s
  | .hold p => Sys2Proof.Machine.execHold p s
  | .resume p => Sys2Proof.Machine.execResume p s
  | .setMask p mask => Sys2Proof.Machine.execSetMask p mask s
  | .setGate p mode => Sys2Proof.Machine.execSetGate p mode s
  | .setLimit p ms => Sys2Proof.Machine.execSetLimit p ms s
  | .readSlots p => Sys2Proof.Machine.execReadSlots p s
  | .raiseWord p source word => Sys2Proof.Machine.execRaiseWord p source word s
  | .readSource p source => Sys2Proof.Machine.execReadSource p source s
  | .writeRoute p source block => Sys2Proof.Machine.execWriteRoute p source block s
  | .enable p source => Sys2Proof.Machine.execEnable p source s
  | .disable p source => Sys2Proof.Machine.execDisable p source s
  | .adopt p source => Sys2Proof.Machine.execAdopt p source s
  | .release p source => Sys2Proof.Machine.execRelease p source s
  | .lock p source => Sys2Proof.Machine.execLock p source s
  | .run p => Sys2Proof.Machine.execRun p s
  | .stop p => Sys2Proof.Machine.execStop p s
  | .evict p port => Sys2Proof.Machine.execEvict p port s
  | .seize p source port => Sys2Proof.Machine.execSeize p source port s
  | .tableReset p => Sys2Proof.Machine.execTableReset p s
  | .setWindow p ms => Sys2Proof.Machine.execSetWindow p ms s
  | .readLines p => Sys2Proof.Machine.execReadLines p s
  | .readTime p => Sys2Proof.Machine.execReadTime p s
  | .readOffer p slot => Sys2Proof.Machine.execReadOffer p slot s
  | .readIdent p => Sys2Proof.Machine.execReadIdent p s
  | .frameError p code args check => Sys2Proof.Machine.execFrameError p code args check s
  | .badCommand p code => Sys2Proof.Machine.execBadCommand p code s
  | .earlyChipSelectRelease p => Sys2Proof.Machine.execEarlyChipSelectRelease p s
  | .timeBaseTick => Sys2Proof.Machine.execTimeBaseTick s

end Sys2Proof.Machine
end

