-- ==== Sys2Proof/Machine/LinkBytes.lean ====
section
/-! DEFINITION. A frame byte by byte: how a Port Interface assembles it from what the master clocks in, and what it drives
(R172, R174, R175). The completed command phase is one of the rows of the table. -/

namespace Sys2Proof.Machine

/-- The command row that a complete command phase is: FRAME_ERROR where the check byte fails (R176), otherwise the command of
its code and arguments, BAD_COMMAND for an unrecognised code (R174, R177). -/
def rowOfPhase (p : Port) (code : Byte) (args : List Byte) (check : Byte) : Option Instr :=
  if check = checkByte (code :: args) then decodeFrame p code args else some (.frameError p code args check)

/-- The row that the bytes received make once they are all of the code's command phase: the code, its argument bytes (none
for an unrecognised code) and one check byte (R172). -/
def completedRow (p : Port) : List Byte → Option Instr
  | [] => none
  | code :: rest =>
    let n := (argCount code).getD 0
    match rest.drop n with
    | [check] => rowOfPhase p code (rest.take n) check
    | _ => none

/-- The frame in progress of port `p` replaced. -/
def setFrame (p : Port) (f : Option LinkFrame) (s : State) : State := s.setPort p { s.port p with frame := f }

/-- The master clocks one byte of a frame in progress (R172, R174): a byte of the command phase joins those received, and
the last of them has the command taken; a later byte is ignored, and counted. -/
def clockByte (p : Port) (b : Byte) (s : State) : Host.Outcome State Fault Refusal :=
  match (s.port p).frame with
  | none => .next s
  | some (.assembling received) =>
    match completedRow p (received ++ [b]) with
    | some c => exec c s
    | none => .next (setFrame p (some (.assembling (received ++ [b]))) s)
  | some (.answering f) => .next (setFrame p (some (.answering { f with clocked := f.clocked + 1 })) s)

/-- What a master does on its link (R172, log 6). A port that takes no frame ignores an assertion of PnCS and what is clocked
(R137, R168); a release is EARLY_CHIP_SELECT_RELEASE, which R175 lets come at any point. -/
def linkStep (e : LinkEvent) (s : State) : Host.Outcome State Fault Refusal :=
  match e with
  | .select p => if takesFrames s p then .next (setFrame p (some (.assembling [])) s) else .next s
  | .byte p b => if takesFrames s p then clockByte p b s else .next s
  | .deselect p => exec (.earlyChipSelectRelease p) s

/-- The byte that a frame drives on PnSDO while the master clocks the next one: 00h in the command phase, in the gap and
after the response check byte, and in between the response (R172). -/
def drivenByte : LinkFrame → Byte
  | .assembling _ => 0#8
  | .answering f => if f.clocked = 0 then 0#8 else f.response.getD (f.clocked - 1) 0#8

/-- PnSDO: the byte that the part drives next, or high impedance (none), with no frame in progress (R172) and while a reset
holds the port or its chip select is ignored (R137, R168). -/
def sdoByte (s : State) (p : Port) : Option Byte := if takesFrames s p then (s.port p).frame.map drivenByte else none

end Sys2Proof.Machine
end

