-- ==== Sys2Proof/Machine/Step.lean ====
section
/-! DEFINITION. One step of the part: the front of the queue of waiting commands, or what the part does by itself. -/

namespace Sys2Proof.Machine

/-- What the part does when no command waits (log 2): a block takes the oldest command that a Port Interface has released
to it; with none, the part takes what a master does next on its link; with nothing there, the oldest message on its way
arrives; with none, the part idles. -/
def idleStep (s : State) : Host.Outcome State Fault Refusal :=
  match s.handed, s.link, s.inFlight with
  | c :: rest, _, _ => exec c { s with handed := rest, released := true }
  | [], e :: rest, _ => linkStep e { s with link := rest }
  | [], [], m :: _ => exec m s
  | [], [], [] => .next s

/-- One step. -/
def step (s : State) : Host.Outcome State Fault Refusal :=
  match s.pending with
  | c :: rest => exec c { s with pending := rest }
  | [] => idleStep s

/-- The state with the command that a table word spells put at the front of the queue; unchanged where it spells none. -/
def State.withFetchWord (s : State) (nbits w : Nat) : State :=
  match decodeTableWord nbits w with
  | some c => { s with pending := c :: s.pending }
  | none => s

end Sys2Proof.Machine
end

