-- ==== Sys2Proof/Safety.lean ====
section
/-! DEFINITION. The terms that claims are stated in: which parts of the state a command leaves alone, what an answered
frame leaves in its Port Interface, and the laws of the device. -/

namespace Sys2Proof.Machine

/-! ### What a command leaves alone -/

/-- The parts of the state. -/
inductive Part where
  | pins | time | control | lines | sources | pool | offers | requests | units | ports | attn | messages | waiting
deriving DecidableEq, Repr

/-- A part is the same in two states. `waiting` is what waits for its turn: released commands, what the masters do on their
links, and the queue. -/
def samePart (s t : State) : Part → Prop
  | .pins => t.pins = s.pins ∧ t.crst = s.crst ∧ t.powerHold = s.powerHold
  | .time => t.time = s.time
  | .control => t.steering = s.steering ∧ t.runState = s.runState ∧ t.window = s.window ∧ t.cause = s.cause
  | .lines => t.lines = s.lines
  | .sources => t.sources = s.sources
  | .pool => t.poolFree = s.poolFree
  | .offers => t.offers = s.offers
  | .requests => t.requests = s.requests
  | .units => t.units = s.units
  | .ports => t.ports = s.ports
  | .attn => t.attn = s.attn
  | .messages => t.inFlight = s.inFlight
  | .waiting => t.handed = s.handed ∧ t.released = s.released ∧ t.link = s.link ∧ t.pending = s.pending

/-- Every part but those listed is the same. -/
def sameBut (changed : List Part) (s t : State) : Prop := ∀ q : Part, q ∉ changed → samePart s t q

/-- Every line but `l` is the same. -/
def otherLines (l : LineId) (s t : State) : Prop := ∀ m, m ≠ l → t.line m = s.line m

/-- Every source record but `i` is the same. -/
def otherSources (i : SourceId) (s t : State) : Prop := ∀ j, j ≠ i → t.src j = s.src j

/-- Every slot of the Offer List but `k` is the same. -/
def otherOffers (k : SlotId) (s t : State) : Prop := ∀ j, j ≠ k → t.offer j = s.offer j

/-- Every Delivery Unit but that of port `p` is the same. -/
def otherUnits (p : Port) (s t : State) : Prop := ∀ q, q ≠ p → t.unit q = s.unit q

/-- Every port's record but that of port `p` is the same. -/
def otherPorts (p : Port) (s t : State) : Prop := ∀ q, q ≠ p → t.port q = s.port q

/-- Every service slot but `k` is the same. -/
def otherSlots (k : ServiceSlotId) (d e : DeliveryUnit) : Prop := ∀ j, j ≠ k → e.slot j = d.slot j

/-! ### Attention (R80) -/

/-- An item of the Delivery Queue is visible: a notice, or a delivery entry whose priority is in the mask (R61). -/
def somethingVisible (d : DeliveryUnit) : Prop :=
  d.notices ≠ [] ∨ ∃ e ∈ d.entries, priorityIn e.priority d.mask = true

/-- ATTN of each port is asserted exactly when CRST is not asserted, the port is ATTACHED, its gate is open and an item of
its queue is visible (R80). -/
def attnLaw (s : State) : Prop :=
  ∀ p : Port, portIn p s.attn = true ↔
    s.crst = false ∧ (s.port p).pstate = .attached ∧ (s.unit p).gateOpen = true ∧ somethingVisible (s.unit p)

/-! ### Frames -/

/-- Port `p` takes a frame's command now and hands it to its block at once: no reset holds the port, no earlier command of
the port is running or waits, and no command that waited is being run (R174). -/
def frameReady (p : Port) (s : State) : Bool :=
  takesFrames s p && portFree s p && (s.port p).held.isEmpty && !s.released

/-- The port's record once command `c` has been taken and answered `a` (R172, R174, R178, R179). Whether the response
carries the answer or the not-ready fill is the free value (log 7). -/
def replied (c : Instr) (p : Port) (a : Answer) (q : PortRecord) : PortRecord :=
  { q with
    frame := some (.answering
      { command := commandBytes c, response := driven p q a, awaiting := false, clocked := 0 }),
    frames := q.frames + 1,
    store := if c = .repeatLast p then q.store
      else some { code := codeOf c, args := argsOf c, status := a.status, data := a.data } }

/-- The state after command `c` of port `p`, answered `a`: of the ports only `p`'s record has changed, and by the answer
alone; ATTN follows its law; every part but those listed, the ports' records and ATTN is the same. -/
def repliedWith (c : Instr) (p : Port) (a : Answer) (changed : List Part) (s t : State) : Prop :=
  t.port p = replied c p a (s.port p) ∧ otherPorts p s t ∧ attnLaw t ∧ sameBut (.ports :: .attn :: changed) s t

/-- Command `c` of port `p` is refused with a status and data bytes 00h, and nothing else changes (R125, R140, R157). -/
def refusedWith (c : Instr) (p : Port) (st : Status) (s : State) : Prop :=
  ∃ t, exec c s = .next t ∧ repliedWith c p { status := st, data := zeros (dataCount (codeOf c)) } [] s t

/-- The state after message or event `m` has arrived and acted: the messages sent follow those on their way; ATTN follows
its law; every part but those listed, the messages and ATTN is the same. -/
def eventDone (m : Instr) (sent : List Instr) (changed : List Part) (s t : State) : Prop :=
  t.inFlight = s.inFlight.erase m ++ sent ∧ attnLaw t ∧ sameBut (.messages :: .attn :: changed) s t

/-- The rows that act while CRST is asserted: power-up, the release of CRST and the pins (R168). The release of a chip
select is one: a port may still be ignoring a chip select asserted through its own reset (R137). -/
def actsInChipReset : Instr → Bool
  | .powerUp .. | .crstRelease _ | .pnrstAssert _ | .pnrstRelease _ _ | .rawLevelChange _ _
  | .earlyChipSelectRelease _ => true
  | _ => false

/-- The row of R125's table that a command frame falls under; none for a row of the table of commands that is no frame.
BAD_COMMAND meets no port-state check (R177). -/
def accessOf : Instr → Option Access
  | .status _ | .repeatLast _ | .badCommand _ _ => some .anyState
  | .attach _ _ => some .attachOnly
  | .readLines _ | .readTime _ | .readOffer _ _ | .readIdent _ | .readSource _ _ | .readSlots _ => some .observation
  | c => if (framePort c).isSome then some .session else none

/-! ### Formation -/

/-- What a formation attempt reads of a port: ATTACHED, with the report of its ATTACH no longer on its way (R127, log 19). -/
def seen (s : State) (q : Port) : Prop := (s.port q).pstate = .attached ∧ Instr.attachReport q ∉ s.inFlight

/-- The record of a line source once an occurrence has been counted at time `now` (R8). -/
def countedAt (now : Time) (r : Source) : Source :=
  { r with
    pending := min 255 (r.pending + 1), overrun := r.overrun || decide (r.pending = 255),
    firstStamp := if r.pending = 0 then some now else r.firstStamp }

/-- The values of the batch that a source's pending occurrences make: of a line source its count, mark and stamp (R11), of a
soft source the first word of its list, with raiser and stamp, and a count of 1 (R48). -/
def pendingFields (r : Source) : DeliveryFields :=
  match r.routing.kind, r.words with
  | .line _ _, _ => { count := r.pending, overrun := r.overrun, stamp := r.firstStamp.getD 0#32, payload := none }
  | .soft _ _, w :: _ =>
    { count := 1, overrun := false, stamp := w.stamp, payload := some { word := w.word, raiser := w.raiser } }
  | .soft _ _, [] => { count := 1, overrun := false, stamp := 0#32, payload := none }

/-- The record of a source whose pending occurrences have moved into a batch with a copy OWED at each port of a set and
nowhere else (R11). -/
def formedFrom (r : Source) (form : Form) (ports : PortSet) (r' : Source) : Prop :=
  ∃ b : Batch,
    r' = { r with state := .active, batch := some b, pending := 0, overrun := false, firstStamp := none,
                  nextRef := r.nextRef + 1 } ∧
    b = { ref := r.nextRef, count := (pendingFields r).count, overrun := (pendingFields r).overrun,
          stamp := (pendingFields r).stamp, payload := (pendingFields r).payload, form := form,
          priority := r.routing.priority, copies := b.copies, excluded := 0#4, offer := none } ∧
    ∀ q : Port, b.copy q = if portIn q ports then .owed else .noCopy

/-- The placement that goes to a port for that batch (R12, R13, R58). -/
def formedPlacement (i : SourceId) (r : Source) (kind : EntryKind) : Placement :=
  { id := { source := i, kind := kind, ref := r.nextRef }, priority := r.routing.priority, fields := pendingFields r }

/-- The last resort of an attempt: a FALLBACK batch for the fallback if one is named and read as ATTACHED, otherwise no
change (R12, R14). -/
def lastResort (sees : Port → Prop) (i : SourceId) (r r' : Source) (sent : List Instr) : Prop :=
  (∀ f, r.routing.fallback = some f → sees f →
    formedFrom r .fallback (onePort f) r' ∧ sent = [.placement f (formedPlacement i r .fallback)]) ∧
  ((∀ f, r.routing.fallback = some f → ¬ sees f) → r' = r ∧ sent = [])

/-- What an attempt makes of a source's record, and what it sends, for the ports that it reads as ATTACHED (R12 to R14). -/
def attemptResult (sees : Port → Prop) (i : SourceId) (r r' : Source) (sent : List Instr) : Prop :=
  match r.routing.mode with
  | .direct => ∀ q, r.routing.targets = onePort q →
    (sees q → formedFrom r .direct (onePort q) r' ∧ sent = [.placement q (formedPlacement i r .direct)]) ∧
    (¬ sees q → lastResort sees i r r' sent)
  | .broadcast => ∃ ports : PortSet, (∀ q, portIn q ports = true ↔ portIn q r.routing.targets = true ∧ sees q) ∧
    (ports ≠ 0#4 →
      formedFrom r .broadcast ports r' ∧
      sent = (portsOf ports).map fun q => .placement q (formedPlacement i r .broadcast)) ∧
    (ports = 0#4 → r' = r ∧ sent = [])
  | .shared =>
    ((∃ q, portIn q r.routing.targets = true ∧ sees q) →
      r' = { r with slotRequest := some r.nextRequest, nextRequest := r.nextRequest + 1 } ∧
      sent = [.slotRequest i .first r.nextRequest r.routing.priority (pendingFields r).stamp]) ∧
    ((∀ q, portIn q r.routing.targets = true → ¬ sees q) → lastResort sees i r r' sent)

/-! ### Routing and the ends of work -/

/-- The route blocks that are valid for source `i`: R142's table and the two conditions that join its fields. -/
def validBlock (i : SourceId) (b : RouteBlock) : Prop :=
  (1 ≤ b.mode.toNat ∧ b.mode.toNat ≤ 3) ∧ b.targets.toNat ≤ 15 ∧ (b.fallback.toNat ≤ 3 ∨ b.fallback.toNat = 63) ∧
  b.priority.toNat ≤ 7 ∧
  (if i.val < 32 then b.kindA.toNat ≤ 4 else 1 ≤ b.kindA.toNat ∧ b.kindA.toNat ≤ 8) ∧ b.kindB.toNat ≤ 15 ∧
  (b.mode.toNat = 1 → ∃ q : Port, b.targets.toNat = 2 ^ q.val ∧ b.fallback.toNat ≠ q.val)

/-- What the Source Table tells the Line Qualifier of a source: a message for a line source, none for a soft one (R52). -/
def toldLine (i : SourceId) (m : LineId → Instr) : List Instr := if h : i.val < 32 then [m ⟨i.val, h⟩] else []

/-- The withdrawals of a batch's copies that are OWED or QUEUED, as placements of a kind (R26). -/
def withdrawalsOf (i : SourceId) (b : Batch) (kind : EntryKind) : List Instr :=
  (allPorts.filter fun q => b.copy q == .owed || b.copy q == .queued).map fun q =>
    .withdrawalRequest q { source := i, kind := kind, ref := b.ref }

/-- What ends the work of a source that no master has taken: the cancel of a standing slot request, the close of an open
offer, and the withdrawals of the copies that the Source Table placed (R24, R26, R164). -/
def workEnded (i : SourceId) (r : Source) : List Instr :=
  (match r.slotRequest with
    | some req => [.slotRequestCancel i req]
    | none => []) ++
  (match r.batch with
    | none => []
    | some b =>
      (if b.offer = none then [] else [.closeRequest i b.ref]) ++
      (match b.form with
        | .direct => withdrawalsOf i b .direct
        | .broadcast => withdrawalsOf i b .broadcast
        | .fallback => withdrawalsOf i b .fallback
        | .shared => []))

/-- What a TABLE_RESET sends of an unlocked source: the ends of its work, the removals of its copies in service, and the
disable report of a source that was enabled (R164). -/
def resetSends (i : SourceId) (r : Source) : List Instr :=
  workEnded i r ++
  (match r.batch with
    | none => []
    | some b => (allPorts.filter fun q => b.copy q == .inService).map fun q => .removalRequest q i b.ref) ++
  (if r.state = .off ∨ r.state = .draining then [] else toldLine i .disableReport)

/-- The EXPIRED notice of a discarded batch, to the source's owner if that is a port and ATTACHED (R21). -/
def expiredNotice (s : State) (i : SourceId) (sent : List Instr) : Prop :=
  (∀ o, (s.src i).owner = some o → (s.port o).pstate = .attached →
    sent = [.noticePosting o .expired (.source i)]) ∧
  ((∀ o, (s.src i).owner = some o → (s.port o).pstate ≠ .attached) → sent = [])

/-- A SHARED batch turned FALLBACK: its values and its copies in service stay, every offer copy has gone, and the fallback
is owed its copy (R20, R21). -/
def convertedTo (f : Port) (b b' : Batch) : Prop :=
  b' = { b with form := .fallback, copies := b'.copies, excluded := 0#4, offer := none } ∧
  ∀ q, b'.copy q = if q = f then .owed else if b.copy q = .offered then .noCopy else b.copy q

/-- The placement of a converted batch (R20). -/
def fallbackPlacement (i : SourceId) (b : Batch) : Placement :=
  { id := { source := i, kind := .fallback, ref := b.ref }, priority := b.priority,
    fields := { count := b.count, overrun := b.overrun, stamp := b.stamp, payload := b.payload } }

/-! ### Claims -/

/-- The claim of an OFFER entry is in flight for the TAKE whose frame is in progress at port `p` (R72, R174). -/
def takeAwaits (p : Port) (c : Claim) (f : Frame) (s : State) : Prop :=
  (s.unit p).claims.find? (·.entry.id = c.entry.id) = some c ∧ (s.port p).running = some c.entry.id ∧
  (s.port p).frame = some (.answering f) ∧ f.awaiting = true ∧ (s.port p).held = []

/-! ### The laws of the device -/

/-- The law of a Delivery Queue (R59): at most 16 entries, at most one entry or owed placement for a source, at most one
notice of each kind, and owed placements only while all 16 entries are in use. -/
def queueLaw (d : DeliveryUnit) : Prop :=
  d.entries.length ≤ 16 ∧
  (d.entries.map (·.id.source) ++ d.owed.map (·.entry.id.source)).Nodup ∧
  (d.notices.map (·.kind)).Nodup ∧
  (d.entries.length < 16 → d.owed = [])

/-- Each Delivery Unit keeps the law of its queue. -/
def queuesLaw (s : State) : Prop := ∀ p : Port, queueLaw (s.unit p)

/-- The law of the service slots (R106): the sequence numbers in them and in the revoked list are non-zero and pairwise
distinct, and the revoked list holds at most four (R112). -/
def sequenceLaw (d : DeliveryUnit) : Prop :=
  (heldSeqs d ++ d.revoked).Nodup ∧ 0#8 ∉ heldSeqs d ++ d.revoked ∧ d.revoked.length ≤ 4

/-- Each Delivery Unit keeps the law of its sequence numbers. -/
def sequencesLaw (s : State) : Prop := ∀ p : Port, sequenceLaw (s.unit p)

/-- A record's routing has the fields of its kind of source (R1). -/
def kindLaw (i : SourceId) (r : Source) : Prop :=
  match r.routing.kind with
  | .line _ _ => i.val < 32
  | .soft depth _ => 32 ≤ i.val ∧ 1 ≤ depth ∧ depth ≤ 8

/-- The number of words in all payload lists. -/
def wordsHeld (s : State) : Nat := (s.sources.toList.map fun r => r.words.length).sum

/-- The depth limit of a source: 0 for a line source, which has no payload list. -/
def depthLimit (r : Source) : Nat :=
  match r.routing.kind with
  | .line _ _ => 0
  | .soft depth _ => depth

/-- The law of the Payload Pool (R43): the words in use and the free cells make 64, and no list is longer than its source's
depth limit. -/
def poolLaw (s : State) : Prop :=
  wordsHeld s + s.poolFree = 64 ∧ ∀ i : SourceId, (s.src i).words.length ≤ depthLimit (s.src i)

/-- Some copy of the batch is in one of the states OWED, QUEUED and OFFERED. -/
def hasUntaken (b : Batch) : Prop := ∃ p : Port, b.copy p = .owed ∨ b.copy p = .queued ∨ b.copy p = .offered

/-- Some copy of the batch is IN_SERVICE. -/
def hasInService (b : Batch) : Prop := ∃ p : Port, b.copy p = .inService

/-- The conditions of a source's state (R7), with R2's of the fields beside them: the overrun mark and the first-pending
stamp go with a pending count above 0, and a slot request stands only in WAITING or ACTIVE. -/
def sourceLaw (r : Source) : Prop :=
  r.pending ≤ 255 ∧
  (r.firstStamp.isSome = true ↔ r.pending ≠ 0) ∧ (r.pending = 0 → r.overrun = false) ∧
  match r.state with
  | .off => r.enable = false ∧ r.pending = 0 ∧ r.words = [] ∧ r.batch = none ∧ r.slotRequest = none
  | .idle => r.enable = true ∧ r.pending = 0 ∧ r.words = [] ∧ r.batch = none ∧ r.slotRequest = none
  | .waiting => r.enable = true ∧ r.batch = none ∧ pendingCount r ≠ 0
  | .active => r.enable = true ∧ ∃ b, r.batch = some b ∧ 1 ≤ b.count ∧ b.count ≤ 255
  | .draining =>
    r.enable = false ∧ r.pending = 0 ∧ r.words.length ≤ 1 ∧ r.slotRequest = none ∧
    ∃ b, r.batch = some b ∧ hasInService b ∧ ¬ hasUntaken b ∧ b.offer = none

/-- What a source's kind asks of its record: a line source has no payload list; a soft source stores no pending count (R4)
and, while it has a batch, its list is not empty (R48). -/
def kindFieldsLaw (r : Source) : Prop :=
  match r.routing.kind with
  | .line _ _ => r.words = []
  | .soft _ _ => r.pending = 0 ∧ (r.batch.isSome = true → r.words ≠ [])

/-- Every source record keeps the conditions of its kind and of its state. -/
def sourcesLaw (s : State) : Prop :=
  ∀ i : SourceId, kindLaw i (s.src i) ∧ kindFieldsLaw (s.src i) ∧ sourceLaw (s.src i)

/-- The law of the port state (R132): a port that is not ATTACHED has an empty Delivery Queue, no owed placements, no
deliveries in service and an empty revoked list, and its claims in flight are of an ended session (R131). -/
def absentLaw (s : State) : Prop :=
  ∀ p : Port, (s.port p).pstate ≠ .attached →
    (s.unit p).entries = [] ∧ (s.unit p).owed = [] ∧ (s.unit p).notices = [] ∧ (s.unit p).revoked = [] ∧
    (∀ k r, (s.unit p).slot k ≠ .held r) ∧ ∀ c ∈ (s.unit p).claims, c.ended = true

/-- The law of an OPEN slot (R82): each candidate either holds an entry or is owed one, and no other port does either. -/
def offersLaw (s : State) : Prop :=
  ∀ k o, s.offer k = .opened o → o.holders &&& o.owed = 0#4 ∧ o.holders ||| o.owed = o.candidates

/-- The port that a locked source's record always names as its owner (R139). -/
def lockedOwned (s : State) : Prop := ∀ i : SourceId, (s.src i).lock = true → (s.src i).owner.isSome = true

/-- The invariant of the part: every law of the device of R7, R43, R59, R80, R82, R106, R132 and R139 at once. -/
def deviceLaws (s : State) : Prop :=
  attnLaw s ∧ queuesLaw s ∧ sequencesLaw s ∧ absentLaw s ∧ offersLaw s ∧ sourcesLaw s ∧ poolLaw s ∧ lockedOwned s

end Sys2Proof.Machine
end

