-- ==== Sys2Proof/WellFormed.lean ====
section
/-! DEFINITION. The operands that the manual's own senders can give each command. Any operand has a meaning in the
machine; a term that this check refuses stands for an event that the part cannot see. -/

namespace Sys2Proof

open Sys2Proof.Machine

/-- A round is 1 to 4 (R58, R102). -/
def roundOk (round : Nat) : Bool := 1 ≤ round && round ≤ 4

/-- The kind of an entry names a round of 1 to 4 if it is OFFER (R58). -/
def kindOk : EntryKind → Bool
  | .offer round => roundOk round
  | _ => true

/-- The delivery fields of a source's batch: a count of 1 to 255 (R5), and for a soft source a count of 1, a clear mark
and a payload, which a line source does not have (R11, R54). -/
def fieldsOk (i : SourceId) (f : DeliveryFields) : Bool :=
  if 32 ≤ i.val then f.count == 1 && !f.overrun && f.payload.isSome
  else 1 ≤ f.count && f.count ≤ 255 && f.payload.isNone

/-- The subject that each kind of notice carries (R76). -/
def subjectOk : NoticeKind → Subject → Bool
  | .expired, .source _ | .revoked, .source _ | .seized, .source _ => true
  | .table, .none => true
  | .peer, .port _ => true
  | _, _ => false

/-- A command whose operands its senders can give. -/
def Instr.wellFormed : Instr → Bool
  | .takenReport _ _ _ seq => seq != 0#8
  | .grantOpen _ i _ _ candidates excluded f => candidates != 0#4 && (candidates &&& excluded) == 0#4 && fieldsOk i f
  | .offerAdmissionReport _ _ round => roundOk round
  | .claim _ _ _ round => roundOk round
  | .candidateLoss _ _ round _ => roundOk round
  | .claimAnswer _ _ _ round _ => roundOk round
  | .placement _ e => kindOk e.id.kind && fieldsOk e.id.source e.fields
  | .withdrawalRequest _ id => kindOk id.kind
  | .noticePosting p kind subject => subjectOk kind subject && !(kind == .peer && subject == .port p)
  | .frameError _ code args check => args.length == (argCount code).getD 0 && check != checkByte (code :: args)
  | .badCommand _ code => (argCount code).isNone
  | _ => true

end Sys2Proof
end

