-- ==== Sys2Proof/Certificates/Slice0/Obligations.lean ====
section
/-! DEFINITION. The statements about the T432 that are to be proved. "Answers" means a next state of exec. -/

section
open Sys2Proof Sys2Proof.Machine

/-! ## The step -/

/-- One step of a part whose queue is not empty runs the command at the front on the state with the queue's rest. -/
def Obligations.StepRunsFrontCommand : Prop :=
  ∀ (c : Instr) (rest : List Instr) (s : State), step { s with pending := c :: rest } = exec c { s with pending := rest }

/-- The model's choice of log 2: with no command waiting, a released command runs, else the part takes what a master does next
on its link, else the oldest message arrives, else the part idles. -/
def Obligations.EmptyQueueDelivers : Prop :=
  ∀ s : State, s.pending = [] →
    (∀ c rest, s.handed = c :: rest → step s = exec c { s with handed := rest, released := true }) ∧
    (∀ e rest, s.handed = [] → s.link = e :: rest → step s = linkStep e { s with link := rest }) ∧
    (∀ m rest, s.handed = [] → s.link = [] → s.inFlight = m :: rest → step s = exec m s) ∧
    (s.handed = [] → s.link = [] → s.inFlight = [] → step s = .next s)

/-- Every command of the table answers a next state in every state, and leaves the queue of waiting commands and what the
masters have still to do on their links alone. -/
def Obligations.EveryCommandAnswersAndKeepsQueue : Prop :=
  ∀ (c : Instr) (s : State), ∃ t, exec c s = .next t ∧ t.pending = s.pending ∧ t.link = s.link

/-! ## Frames -/

/-- R181: decoding the code and argument bytes of any well-formed command frame gives the command back, and the frame has
the number of argument bytes of its code. -/
def Obligations.FramesReadBack : Prop :=
  ∀ (c : Instr) (p : Port) (code : Byte) (args : List Byte),
    c.wellFormed = true → framePort c = some p → encodeFrame c = some (code, args) →
      decodeFrame p code args = some c ∧ args.length = (argCount code).getD 0

/-- R173: the register starts at FFh; each byte is combined by exclusive-or and shifted eight times with generator 2Fh; the
worked values; and what each phase's check byte covers. -/
def Obligations.CheckByteRule : Prop :=
  checkByte [] = 0xFF#8 ∧
  (∀ (bytes : List Byte) (b : Byte), checkByte (bytes ++ [b]) =
    crcShift (crcShift (crcShift (crcShift (crcShift (crcShift (crcShift (crcShift (checkByte bytes ^^^ b))))))))) ∧
  (∀ r : Byte, crcShift r = if r.getLsbD 7 = true then (r <<< 1) ^^^ 0x2F#8 else r <<< 1) ∧
  (∀ c : Instr, commandBytes c = (codeOf c :: argsOf c) ++ [checkByte (codeOf c :: argsOf c)]) ∧
  (∀ a : Answer, responseBytes a = (statusCode a.status :: a.data) ++ [checkByte (statusCode a.status :: a.data)]) ∧
  checkByte [0x01#8] = 0x6D#8 ∧ checkByte [0x00#8] = 0x42#8 ∧ checkByte [0x12#8, 0x03#8] = 0x11#8 ∧
  checkByte [0x05#8] = 0xD1#8 ∧ checkByte [0x04#8] = 0xFE#8

/-- R125: a command that its port's state does not allow is refused with the table's status, every data byte 00h; and the table:
which status refuses a row of commands in each port state, and where there is none. -/
def Obligations.PortStateRefuses : Prop :=
  (∀ (c : Instr) (p : Port) (a : Access) (st : Status) (s : State),
     framePort c = some p → c.wellFormed = true → accessOf c = some a → frameReady p s = true →
     portCheck a (s.port p).pstate = some st → refusedWith c p st s) ∧
  ((∀ ps, portCheck .anyState ps = none) ∧
   portCheck .attachOnly .detached = none ∧ portCheck .attachOnly .attached = some .already ∧
   portCheck .attachOnly .evicted = some .evicted ∧
   portCheck .observation .detached = none ∧ portCheck .observation .attached = none ∧
   portCheck .observation .evicted = some .evicted ∧
   portCheck .session .detached = some .notAttached ∧ portCheck .session .attached = none ∧
   portCheck .session .evicted = some .evicted ∧
   (∀ p : Port,
     [Instr.status p, .repeatLast p].map accessOf = [some .anyState, some .anyState] ∧
     (∀ tag, accessOf (.attach p tag) = some .attachOnly) ∧
     (∀ x, [Instr.readLines p, .readTime p, .readOffer p x, .readIdent p, .readSource p x, .readSlots p].map accessOf =
       List.replicate 6 (some .observation)) ∧
     (∀ x y w b, [Instr.detach p, .peek p, .take p, .doneSeq p x, .hold p, .resume p, .setMask p x, .setGate p x,
         .setLimit p w, .raiseWord p x w, .writeRoute p x b, .enable p x, .disable p x, .adopt p x, .release p x,
         .lock p x, .run p, .stop p, .evict p x, .seize p x y, .tableReset p, .setWindow p x].map accessOf =
       List.replicate 22 (some .session))))

/-- By the model's reading of log 8 (DEDUCED from R174's one command at a time): a command taken while the port's previous one
has no response in the store yet waits in the Port Interface, whatever the port's state, which is checked when it is handed
over; its frame is in progress and nothing else happens. -/
def Obligations.CommandWaitsForPrevious : Prop :=
  ∀ (c : Instr) (p : Port) (s : State),
    framePort c = some p → c.wellFormed = true → takesFrames s p = true → s.released = false → portFree s p = false →
    ∃ t, exec c s = .next t ∧
      t.port p = { s.port p with
        frame := some (.answering
          { command := commandBytes c, response := notReadyFill (dataCount (codeOf c)), awaiting := true, clocked := 0 })
        held := (s.port p).held ++ [c] } ∧
      otherPorts p s t ∧ attnLaw t ∧ sameBut [.ports, .attn] s t

/-- R176, R177, R175: FRAME_ERROR answers with the code's number of data bytes and leaves the store alone; BAD_COMMAND
replaces the store; an early release of chip select ends the frame with nothing taken. R172, R174: byte by byte, an assertion
of PnCS begins a frame; the bytes of the command phase join those received; the last of them has the command of the code and
arguments taken, or a FRAME_ERROR; later bytes are ignored. The part drives 00h in the command phase, in the gap and after
the response, the response in between, and nothing while no frame is in progress or a reset holds the port (R137). That the
row runs as the last byte comes, and that a port which ignores its chip select drives nothing, is logs 6 and 15. -/
def Obligations.LinkRows : Prop :=
  (∀ (p : Port) (code : Byte) (args : List Byte) (check : Byte) (s : State),
    takesFrames s p = true → args.length = (argCount code).getD 0 → check ≠ checkByte (code :: args) →
    ∃ t, exec (.frameError p code args check) s = .next t ∧
      t.port p = { s.port p with
        frame := some (.answering
          { command := code :: args ++ [check],
            response := driven p (s.port p) { status := .frameError, data := zeros (dataCount code) },
            awaiting := false, clocked := 0 })
        frames := (s.port p).frames + 1 } ∧
      otherPorts p s t ∧ sameBut [.ports] s t) ∧
  (∀ (p : Port) (code : Byte) (s : State), frameReady p s = true → argCount code = none →
    ∃ t, exec (.badCommand p code) s = .next t ∧
      repliedWith (.badCommand p code) p { status := .badCommand, data := [] } [] s t) ∧
  (∀ (p : Port) (s : State), (s.port p).inReset = false →
    ∃ t, exec (.earlyChipSelectRelease p) s = .next t ∧
      t.port p = { s.port p with frame := none, csIgnored := false } ∧ otherPorts p s t ∧ sameBut [.ports] s t) ∧
  (∀ (p : Port) (b : Byte) (s : State),
    let becomes := fun (e : LinkEvent) (f : LinkFrame) => ∃ t, linkStep e s = .next t ∧
      t.port p = { s.port p with frame := some f } ∧ otherPorts p s t ∧ sameBut [.ports] s t
    linkStep (.deselect p) s = exec (.earlyChipSelectRelease p) s ∧
    (takesFrames s p = false →
      linkStep (.select p) s = .next s ∧ linkStep (.byte p b) s = .next s ∧ sdoByte s p = none) ∧
    (takesFrames s p = true →
      becomes (.select p) (.assembling []) ∧
      ((s.port p).frame = none → linkStep (.byte p b) s = .next s ∧ sdoByte s p = none) ∧
      (∀ received, (s.port p).frame = some (.assembling received) → sdoByte s p = some 0#8 ∧
        (∀ code rest, received ++ [b] = code :: rest → rest.length ≤ (argCount code).getD 0 →
          becomes (.byte p b) (.assembling (received ++ [b]))) ∧
        (∀ code args, received = code :: args → args.length = (argCount code).getD 0 →
          (b = checkByte (code :: args) → ∃ c, framePort c = some p ∧ c.wellFormed = true ∧
            encodeFrame c = some (code, args) ∧ linkStep (.byte p b) s = exec c s) ∧
          (b ≠ checkByte (code :: args) → linkStep (.byte p b) s = exec (.frameError p code args b) s))) ∧
      (∀ f, (s.port p).frame = some (.answering f) →
        becomes (.byte p b) (.answering { f with clocked := f.clocked + 1 }) ∧
        (f.clocked = 0 → sdoByte s p = some 0#8) ∧
        (∀ n (h : n < f.response.length), f.clocked = n + 1 → sdoByte s p = some f.response[n]) ∧
        (f.response.length < f.clocked → sdoByte s p = some 0#8))))

/-! ## Power, reset and pins -/

/-- R167 with R1, R2, R38, R44, R56, R81, R83, R106, R124, R156, R157: the values of every part as power-up ends. -/
def Obligations.PowerUpValues : Prop :=
  ∀ (ssel : BitVec 3) (lin : BitVec 32) (crst : Bool) (prst : PortSet) (s : State),
    ∃ t, exec (.powerUp ssel lin crst prst) s = .next t ∧
      t.time = 0#32 ∧ t.window = 20#8 ∧ t.cause = .power ∧ t.pins = { lin := lin, ssel := ssel } ∧ t.crst = crst ∧
      (∀ p : Port, ssel.toNat = p.val → t.steering = some p ∧ t.runState = .stopped) ∧
      (4 ≤ ssel.toNat → t.steering = none ∧ t.runState = .running) ∧
      (∀ l : LineId, t.line l =
        { raw := lin.getLsbD l.val, settled := lin.getLsbD l.val, timer := none, image := false }) ∧
      (∀ i : SourceId, t.src i =
        { routing := { mode := .direct, targets := 0#4, fallback := none, priority := 4,
                       kind := if i.val < 32 then .line .rise 2 else .soft 4 0xF#4 }
          owner := none, lock := false, enable := false, state := .off, pending := 0, overrun := false,
          firstStamp := none, batch := none, lastOutcome := .noOutcome, slotRequest := none, words := [],
          nextRef := (s.src i).nextRef, nextRequest := (s.src i).nextRequest }) ∧
      t.poolFree = 64 ∧ (∀ k : SlotId, t.offer k = .free) ∧ t.requests = [] ∧
      (∀ p : Port,
        (t.unit p).entries = [] ∧ (t.unit p).owed = [] ∧ (t.unit p).notices = [] ∧ (t.unit p).claims = [] ∧
        (t.unit p).seq = 0#8 ∧ (t.unit p).mask = 0xFF#8 ∧ (t.unit p).gateOpen = true ∧
        (t.unit p).gateOnTake = false ∧ (∀ k, (t.unit p).slot k = .free) ∧ (t.unit p).revoked = [] ∧
        (t.unit p).limit = 0#16 ∧
        (t.port p).pstate = .detached ∧ (t.port p).tag = 0#16 ∧ (t.port p).store = none ∧ (t.port p).frame = none ∧
        (t.port p).inReset = portIn p prst) ∧
      t.attn = 0#4 ∧ t.inFlight = []

/-- R168, R39: what an assertion of CRST abandons and holds, and that while CRST is asserted no command, message, deadline
or tick changes anything. That the commands taken and not yet handed over are dropped too is log 8 (DEDUCED), and that a
second CRST_ASSERT, or any row whose event cannot occur then, does nothing is log 4 (DESIGN CHOICE). -/
def Obligations.ChipResetHoldsThePart : Prop :=
  (∀ s : State, s.crst = false → ∃ t, exec .crstAssert s = .next t ∧
    t.crst = true ∧ t.pins = s.pins ∧ t.time = 0#32 ∧ t.attn = 0#4 ∧ t.inFlight = [] ∧ t.handed = [] ∧
    (∀ l, t.line l = { s.line l with timer := none }) ∧
    (∀ p, t.port p = { s.port p with frame := none, running := none, held := [] }) ∧
    sameBut [.pins, .time, .attn, .messages, .waiting, .lines, .ports] s t) ∧
  (∀ (c : Instr) (s : State), s.crst = true → s.released = false → s.attn = 0#4 → actsInChipReset c = false →
    exec c s = .next s)

/-- R169, R3, R39, R156: as chip reset ends every record takes its power-up values, but that a locked record keeps its
routing, owner, lock and enable; and each locked, enabled, asserted level line reports one occurrence. -/
def Obligations.ChipResetEnds : Prop :=
  ∀ (ssel : BitVec 3) (s : State), s.crst = true → ∃ t, exec (.crstRelease ssel) s = .next t ∧
    t.crst = false ∧ t.time = 0#32 ∧ t.window = 20#8 ∧ t.cause = (if s.powerHold then .power else .chip) ∧
    t.pins = { lin := s.pins.lin, ssel := ssel } ∧
    (∀ p : Port, ssel.toNat = p.val → t.steering = some p ∧ t.runState = .stopped) ∧
    (4 ≤ ssel.toNat → t.steering = none ∧ t.runState = .running) ∧
    (∀ i : SourceId,
      (t.src i).routing = (if (s.src i).lock then (s.src i).routing else powerUpRouting i) ∧
      (t.src i).owner = (if (s.src i).lock then (s.src i).owner else none) ∧ (t.src i).lock = (s.src i).lock ∧
      (t.src i).enable = ((s.src i).lock && (s.src i).enable) ∧
      (t.src i).state = (if (s.src i).lock && (s.src i).enable then .idle else .off) ∧
      (t.src i).pending = 0 ∧ (t.src i).overrun = false ∧ (t.src i).firstStamp = none ∧ (t.src i).batch = none ∧
      (t.src i).lastOutcome = .noOutcome ∧ (t.src i).slotRequest = none ∧ (t.src i).words = []) ∧
    (∀ l : LineId, t.line l =
      { raw := s.pins.lin.getLsbD l.val, settled := s.pins.lin.getLsbD l.val, timer := none,
        image := (s.src (sourceOfLine l)).lock && (s.src (sourceOfLine l)).enable }) ∧
    t.poolFree = 64 ∧ (∀ k, t.offer k = .free) ∧ t.requests = [] ∧ (∀ p, t.unit p = powerUpUnit) ∧
    (∀ p, (t.port p).pstate = .detached ∧ (t.port p).tag = 0#16 ∧ (t.port p).store = none ∧ (t.port p).frame = none ∧
      (t.port p).inReset = (s.port p).inReset) ∧
    t.attn = 0#4 ∧
    t.inFlight = ((List.finRange 32).filter fun l => (t.line l).image && lineAsserted t l).map .occurrenceReport

/-- R136, R137, R106, R57: an assertion of PnRST hands an ATTACHED port's work back, restores its settings and empties its
record, and touches nothing of the other ports; after the release the port takes frames, unless its chip select was
asserted through the reset. The claims of an ATTACHED port are marked as of an ended session (R131). That the commands of the
port that wait are dropped with its frame is log 8 (DEDUCED), and how long a chip select is ignored is log 15 (DEDUCED). -/
def Obligations.PortReset : Prop :=
  (∀ (p : Port) (s : State), s.crst = false → ∃ t, exec (.pnrstAssert p) s = .next t ∧
    t.port p = { s.port p with
      pstate := .detached, tag := 0#16, store := none, frame := none, running := none, held := [], inReset := true,
      csIgnored := false } ∧
    otherPorts p s t ∧ otherUnits p s t ∧
    (t.unit p).mask = 0xFF#8 ∧ (t.unit p).gateOpen = true ∧ (t.unit p).gateOnTake = false ∧ (t.unit p).limit = 0#16 ∧
    (t.unit p).seq = (s.unit p).seq ∧
    ((s.port p).pstate = .attached →
      (t.unit p).entries = [] ∧ (t.unit p).owed = [] ∧ (t.unit p).notices = [] ∧ (t.unit p).revoked = [] ∧
      (∀ k, (t.unit p).slot k =
        match (s.unit p).slot k with
        | .reserved id => .reserved id
        | _ => .free) ∧
      (t.unit p).claims = (s.unit p).claims.map (fun c => { c with ended := true }) ∧
      t.inFlight = s.inFlight ++ handbackMessages s.time p (s.unit p)) ∧
    ((s.port p).pstate ≠ .attached →
      t.unit p = { s.unit p with mask := 0xFF#8, gateOpen := true, gateOnTake := false, limit := 0#16 } ∧
      t.inFlight = s.inFlight) ∧
    attnLaw t ∧ t.handed = s.handed.filter (fun c => framePort c ≠ some p) ∧
    sameBut [.ports, .units, .messages, .attn, .waiting] s t) ∧
  (∀ (p : Port) (cs : Bool) (s : State), (s.port p).inReset = true → ∃ t, exec (.pnrstRelease p cs) s = .next t ∧
    t.port p = { s.port p with inReset := false, csIgnored := cs } ∧ (s.crst = false → takesFrames t p = !cs) ∧
    otherPorts p s t ∧ sameBut [.ports] s t)

/-! ## Line Qualifier -/

/-- R30, R31, R33: a raw change starts a timing, settles at once with settle 0, or abandons the timing in progress. -/
def Obligations.RawLevelChanges : Prop :=
  ∀ (l : LineId) (high : Bool) (trigger : Trigger) (settle : Fin 16) (s : State),
    s.crst = false → (s.line l).raw ≠ high → (s.src (sourceOfLine l)).routing.kind = .line trigger settle →
    ∃ t, exec (.rawLevelChange l high) s = .next t ∧
      otherLines l s t ∧ t.pins.ssel = s.pins.ssel ∧ t.crst = s.crst ∧
      (∀ m : LineId, t.pins.lin.getLsbD m.val = if m = l then high else s.pins.lin.getLsbD m.val) ∧
      ((s.line l).timer ≠ none →
        t.line l = { s.line l with raw := high, timer := none } ∧ t.inFlight = s.inFlight) ∧
      ((s.line l).timer = none → settle = 0 →
        t.line l = { s.line l with raw := high, settled := high } ∧
        t.inFlight = s.inFlight ++
          (if (s.line l).image && edgeMatches trigger high then [Instr.occurrenceReport l] else [])) ∧
      ((s.line l).timer = none → settle ≠ 0 →
        t.line l = { s.line l with raw := high, timer := some (s.time + BitVec.ofNat 32 (2 * settle.val)) } ∧
        t.inFlight = s.inFlight) ∧
      attnLaw t ∧ sameBut [.pins, .lines, .messages, .attn] s t

/-- R32, R33: at its deadline a timing gives the settled level the raw level and reports an occurrence where the image is set
and the edge matches. That a deadline counts as reached when its age is below 2^31, so that an expiry may be taken late, is
log 5 (DEDUCED); that an expiry of an idle timer or of a deadline still ahead has no effect is log 4 (DESIGN CHOICE). -/
def Obligations.SettleExpiry : Prop :=
  (∀ (l : LineId) (deadline : Time) (trigger : Trigger) (settle : Fin 16) (s : State),
    s.crst = false → (s.line l).timer = some deadline → reached s.time deadline = true →
    (s.src (sourceOfLine l)).routing.kind = .line trigger settle →
    ∃ t, exec (.settleExpiry l) s = .next t ∧
      t.line l = { s.line l with settled := (s.line l).raw, timer := none } ∧ otherLines l s t ∧
      eventDone (.settleExpiry l)
        (if (s.line l).image && edgeMatches trigger (s.line l).raw then [.occurrenceReport l] else []) [.lines] s t) ∧
  (∀ (l : LineId) (s : State), s.crst = false →
    ((s.line l).timer = none ∨ ∃ d, (s.line l).timer = some d ∧ reached s.time d = false) →
    ∃ t, exec (.settleExpiry l) s = .next t ∧ eventDone (.settleExpiry l) [] [] s t)

/-- R34, R36: the enable report sets the image and reports an asserted level line, the disable report clears the image, and
the completion report re-arms an asserted level line whatever the image. R33's table of edges and R29's of levels. -/
def Obligations.LineReports : Prop :=
  (∀ (l : LineId) (s : State), s.crst = false →
     (∃ t, exec (.enableReport l) s = .next t ∧ t.line l = { s.line l with image := true } ∧ otherLines l s t ∧
       eventDone (.enableReport l) (if lineAsserted s l then [.occurrenceReport l] else []) [.lines] s t) ∧
     (∃ t, exec (.disableReport l) s = .next t ∧ t.line l = { s.line l with image := false } ∧ otherLines l s t ∧
       eventDone (.disableReport l) [] [.lines] s t) ∧
     (∃ t, exec (.completionReport l) s = .next t ∧
       eventDone (.completionReport l) (if lineAsserted s l then [.occurrenceReport l] else []) [] s t)) ∧
  ((∀ rising, edgeMatches .rise rising = rising ∧ edgeMatches .fall rising = !rising ∧ edgeMatches .both rising = true ∧
     edgeMatches .high rising = rising ∧ edgeMatches .low rising = !rising) ∧
   (∀ (l : LineId) (trigger : Trigger) (settle : Fin 16) (s : State),
     (s.src (sourceOfLine l)).routing.kind = .line trigger settle →
     (lineAsserted s l = true ↔
       trigger = .high ∧ (s.line l).settled = true ∨ trigger = .low ∧ (s.line l).settled = false)))

/-! ## Source Table: occurrences and formation -/

/-- R8: an occurrence is ignored in OFF and DRAINING, and otherwise counted, stopping at 255 with the overrun mark; the
attempt that follows in IDLE or WAITING fails while the run state is STOPPED or a slot request stands (R10). -/
def Obligations.OccurrenceCounted : Prop :=
  ∀ (l : LineId) (s : State), s.crst = false →
    let i := sourceOfLine l
    let r := s.src i
    ((r.state = .off ∨ r.state = .draining) →
      ∃ t, exec (.occurrenceReport l) s = .next t ∧ eventDone (.occurrenceReport l) [] [] s t) ∧
    (r.pending ≤ 255 →
      (r.state = .active ∨
        (r.state = .idle ∨ r.state = .waiting) ∧ (s.runState = .stopped ∨ r.slotRequest ≠ none)) →
      ∃ t, exec (.occurrenceReport l) s = .next t ∧
        t.src i = { r with
          state := if r.state = .active then .active else .waiting
          pending := min 255 (r.pending + 1)
          overrun := r.overrun || decide (r.pending = 255)
          firstStamp := if r.pending = 0 then some s.time else r.firstStamp } ∧
        otherSources i s t ∧ eventDone (.occurrenceReport l) [] [.sources] s t)

/-- R10, R11, R12: an occurrence of a DIRECT line source in IDLE or WAITING forms a batch for the target if it is ATTACHED,
else a FALLBACK batch for an ATTACHED fallback, else leaves the source WAITING. R13: an occurrence of a BROADCAST line source
forms a batch with a copy OWED at every ATTACHED target and a placement to each; with no target ATTACHED the source waits. A
port whose attach report has not arrived is read as not ATTACHED (R127, log 19). -/
def Obligations.DirectAndBroadcastFormation : Prop :=
  ∀ (l : LineId) (trigger : Trigger) (settle : Fin 16) (s : State),
    let i := sourceOfLine l
    let r := s.src i
    let r₁ := countedAt s.time r
    let waits := ∃ t, exec (.occurrenceReport l) s = .next t ∧ t.src i = { r₁ with state := .waiting } ∧
      otherSources i s t ∧ eventDone (.occurrenceReport l) [] [.sources] s t
    s.crst = false → s.runState = .running → (r.state = .idle ∨ r.state = .waiting) → r.slotRequest = none →
    r.pending ≤ 255 → r.routing.kind = .line trigger settle →
    (∀ q, r.routing.mode = .direct → r.routing.targets = onePort q →
      (seen s q → ∃ t, exec (.occurrenceReport l) s = .next t ∧
        formedFrom r₁ .direct (onePort q) (t.src i) ∧ otherSources i s t ∧
        eventDone (.occurrenceReport l) [.placement q (formedPlacement i r₁ .direct)] [.sources] s t) ∧
      (∀ f, ¬ seen s q → r.routing.fallback = some f → seen s f → ∃ t, exec (.occurrenceReport l) s = .next t ∧
        formedFrom r₁ .fallback (onePort f) (t.src i) ∧ otherSources i s t ∧
        eventDone (.occurrenceReport l) [.placement f (formedPlacement i r₁ .fallback)] [.sources] s t) ∧
      (¬ seen s q → (∀ f, r.routing.fallback = some f → ¬ seen s f) → waits)) ∧
    (r.routing.mode = .broadcast →
      (∀ ports, (∀ q, portIn q ports = true ↔ portIn q r.routing.targets = true ∧ seen s q) → ports ≠ 0#4 →
        ∃ t, exec (.occurrenceReport l) s = .next t ∧
          formedFrom r₁ .broadcast ports (t.src i) ∧ otherSources i s t ∧
          eventDone (.occurrenceReport l)
            ((allPorts.filter fun q => portIn q ports).map fun q => .placement q (formedPlacement i r₁ .broadcast))
            [.sources] s t) ∧
      ((∀ q, portIn q r.routing.targets = true → ¬ seen s q) → waits))

/-- R10, R14: an occurrence of a SHARED line source with an ATTACHED target asks for an offer slot and leaves the source
WAITING with the request standing; with none it forms a FALLBACK batch for an ATTACHED fallback, and without such a fallback
it waits. A port whose attach report has not arrived is read as not ATTACHED (R127, log 19). -/
def Obligations.SharedFormation : Prop :=
  ∀ (l : LineId) (trigger : Trigger) (settle : Fin 16) (s : State),
    let i := sourceOfLine l
    let r := s.src i
    let r₁ := countedAt s.time r
    s.crst = false → s.runState = .running → (r.state = .idle ∨ r.state = .waiting) → r.slotRequest = none →
    r.pending ≤ 255 → r.routing.kind = .line trigger settle → r.routing.mode = .shared →
    (∀ stamp, (∃ q, portIn q r.routing.targets = true ∧ seen s q) →
      (if r.pending = 0 then some s.time else r.firstStamp) = some stamp →
      ∃ t, exec (.occurrenceReport l) s = .next t ∧
        t.src i = { r₁ with
          state := .waiting, slotRequest := some r.nextRequest, nextRequest := r.nextRequest + 1 } ∧
        otherSources i s t ∧
        eventDone (.occurrenceReport l) [.slotRequest i .first r.nextRequest r.routing.priority stamp] [.sources] s t) ∧
    ((∀ q, portIn q r.routing.targets = true → ¬ seen s q) →
      (∀ f, r.routing.fallback = some f → seen s f → ∃ t, exec (.occurrenceReport l) s = .next t ∧
        formedFrom r₁ .fallback (onePort f) (t.src i) ∧ otherSources i s t ∧
        eventDone (.occurrenceReport l) [.placement f (formedPlacement i r₁ .fallback)] [.sources] s t) ∧
      ((∀ f, r.routing.fallback = some f → ¬ seen s f) → ∃ t, exec (.occurrenceReport l) s = .next t ∧
        t.src i = { r₁ with state := .waiting } ∧ otherSources i s t ∧
        eventDone (.occurrenceReport l) [] [.sources] s t))

/-- R127, R158, R10: the round of attempts of an ATTACH report or a RUN report takes the message away and makes, while RUNNING, an
attempt by its mode for every WAITING source without a standing request that has occurrences pending and, for an ATTACH, names
the port (R12 to R14: DIRECT, BROADCAST, SHARED and the last resort), with the messages of the attempts in ascending order of
the sources (log 11) and no others; every other record stays as it was. While STOPPED nothing but the message changes. The
premise of no batch is R7's of WAITING. -/
def Obligations.AttemptRounds : Prop :=
  ∀ (c : Instr) (s : State),
    (c = .runReport ∨ ∃ p, c = .attachReport p) → s.crst = false →
    (∀ i, (s.src i).state = .waiting → (s.src i).batch = none) →
    ∃ (t : State) (sentBy : SourceId → List Instr),
      exec c s = .next t ∧ eventDone c ((List.finRange 48).flatMap sentBy) [.sources] s t ∧
      (s.runState = .stopped → t.sources = s.sources ∧ t.inFlight = s.inFlight.erase c) ∧
      ∀ i,
        let r := s.src i
        let named := ∀ p, c = .attachReport p → portIn p r.routing.targets = true ∨ r.routing.fallback = some p
        let attempted := r.state = .waiting ∧ s.runState = .running ∧ r.slotRequest = none ∧ pendingCount r ≠ 0 ∧ named
        (attempted → attemptResult (seen (s.arrive c)) i r (t.src i) (sentBy i)) ∧
        (¬ attempted → t.src i = r ∧ sentBy i = [])

/-! ## Source Table: reports about a batch -/

/-- R16, R17: an admitted report makes an OWED copy QUEUED; a taken report makes a QUEUED copy IN_SERVICE, and one for a copy
that is NONE has the delivery removed from its slot, the record unchanged. That the admitted report of an offer placement acts
in the same way where its batch has become FALLBACK for that port is log 22 (DESIGN CHOICE). -/
def Obligations.CopyReports : Prop :=
  ∀ (i : SourceId) (p : Port) (ref : Nat) (seq : Byte) (s : State), s.crst = false →
    (∀ b, (s.src i).batch = some b → b.ref = ref →
      (b.copy p = .owed → ∃ t, exec (.admittedReport i p ref) s = .next t ∧
        t.src i = { s.src i with batch := some (b.setCopy p .queued) } ∧ otherSources i s t ∧
        eventDone (.admittedReport i p ref) [] [.sources] s t) ∧
      (b.copy p = .queued → ∃ t, exec (.takenReport i p ref seq) s = .next t ∧
        t.src i = { s.src i with batch := some (b.setCopy p .inService) } ∧ otherSources i s t ∧
        eventDone (.takenReport i p ref seq) [] [.sources] s t)) ∧
    ((∀ b, (s.src i).batch = some b → b.ref = ref → b.copy p = .noCopy) →
      (∃ t, exec (.takenReport i p ref seq) s = .next t ∧
        eventDone (.takenReport i p ref seq) [.removalRequest p i ref] [] s t) ∧
      (∃ t, exec (.admittedReport i p ref) s = .next t ∧ eventDone (.admittedReport i p ref) [] [] s t) ∧
      (∃ t, exec (.doneReport i p ref) s = .next t ∧ eventDone (.doneReport i p ref) [] [] s t))

/-- R16, R22, R49: a done report makes an IN_SERVICE copy DONE. With another copy outstanding that is all. Otherwise the batch
completes: it is removed, last outcome is DELIVERED, a line source's Line Qualifier is told, a soft source's word is freed,
and a source with nothing pending is IDLE, one with more WAITING while STOPPED. R27: a report that ends the last IN_SERVICE
copy of a DRAINING line source leaves it OFF without its batch: last outcome DELIVERED, with a completion report, if a copy
is DONE; REVOKED otherwise. -/
def Obligations.DoneReportEndsBatch : Prop :=
  (∀ (i : SourceId) (p : Port) (b : Batch) (s : State),
     s.crst = false → (s.src i).batch = some b → b.copy p = .inService → (s.src i).state = .active →
     (∀ q, q ≠ p → outstanding (b.copy q) = true → ∃ t, exec (.doneReport i p b.ref) s = .next t ∧
       t.src i = { s.src i with batch := some (b.setCopy p .done) } ∧ otherSources i s t ∧
       eventDone (.doneReport i p b.ref) [] [.sources] s t) ∧
     ((∀ q, q ≠ p → b.copy q = .noCopy ∨ b.copy q = .done) → b.offer = none → (s.src i).slotRequest = none →
       (∀ l trigger settle, i = sourceOfLine l → (s.src i).routing.kind = .line trigger settle → (s.src i).words = [] →
         ((s.src i).pending = 0 ∨ s.runState = .stopped) → ∃ t, exec (.doneReport i p b.ref) s = .next t ∧
           t.src i = { s.src i with
             batch := none, lastOutcome := .delivered,
             state := if (s.src i).pending = 0 then .idle else .waiting } ∧
           otherSources i s t ∧ eventDone (.doneReport i p b.ref) [.completionReport l] [.sources] s t) ∧
       (∀ depth raisers w ws, 32 ≤ i.val → (s.src i).routing.kind = .soft depth raisers → (s.src i).words = w :: ws →
         (ws = [] ∨ s.runState = .stopped) → ∃ t, exec (.doneReport i p b.ref) s = .next t ∧
           t.src i = { s.src i with
             batch := none, lastOutcome := .delivered, words := ws, state := if ws = [] then .idle else .waiting } ∧
           t.poolFree = s.poolFree + 1 ∧ otherSources i s t ∧
           eventDone (.doneReport i p b.ref) [] [.sources, .pool] s t))) ∧
  (∀ (l : LineId) (p : Port) (kind : Form) (b : Batch) (s : State),
     let i := sourceOfLine l
     s.crst = false → (s.src i).batch = some b → b.copy p = .inService → (s.src i).state = .draining →
     (∀ q, q ≠ p → b.copy q ≠ .inService) → (s.src i).words = [] →
     (∃ t, exec (.doneReport i p b.ref) s = .next t ∧
       t.src i = { s.src i with batch := none, lastOutcome := .delivered, state := .off } ∧ otherSources i s t ∧
       eventDone (.doneReport i p b.ref) [.completionReport l] [.sources] s t) ∧
     ((∀ q, q ≠ p → b.copy q ≠ .done) → ∃ t, exec (.revokedReport i p b.ref kind) s = .next t ∧
       t.src i = { s.src i with batch := none, lastOutcome := .revoked, state := .off } ∧ otherSources i s t ∧
       eventDone (.revokedReport i p b.ref kind) [] [.sources] s t))

/-- R18, R23: a withdrawal report returns a DIRECT or FALLBACK batch to pending, merged, with last outcome RETURNED (the
attempt that follows fails while STOPPED), and drops a BROADCAST copy as done; for a SHARED batch it changes nothing. That the
report of an OFFER entry acts in the same way where its batch has become FALLBACK for that port is log 22 (DESIGN CHOICE). -/
def Obligations.WithdrawalReturns : Prop :=
  ∀ (i : SourceId) (p : Port) (b : Batch) (s : State),
    s.crst = false → (s.src i).batch = some b → (s.src i).state = .active →
    ((b.form = .direct ∨ b.form = .fallback) → (b.copy p = .owed ∨ b.copy p = .queued) → s.runState = .stopped →
      ∀ trigger settle, (s.src i).routing.kind = .line trigger settle →
      ∃ t, exec (.withdrawalReport i p b.ref) s = .next t ∧
        t.src i = { s.src i with
          batch := none, lastOutcome := .returned, state := .waiting,
          pending := min 255 (b.count + (s.src i).pending)
          overrun := decide (255 < b.count + (s.src i).pending) || b.overrun || (s.src i).overrun
          firstStamp := some b.stamp } ∧
        otherSources i s t ∧ eventDone (.withdrawalReport i p b.ref) [] [.sources] s t) ∧
    (b.form = .broadcast → (b.copy p = .owed ∨ b.copy p = .queued) →
      ∀ q, q ≠ p → outstanding (b.copy q) = true → ∃ t, exec (.withdrawalReport i p b.ref) s = .next t ∧
        t.src i = { s.src i with batch := some (b.setCopy p .done) } ∧ otherSources i s t ∧
        eventDone (.withdrawalReport i p b.ref) [] [.sources] s t) ∧
    (b.form = .shared → ∃ t, exec (.withdrawalReport i p b.ref) s = .next t ∧
      eventDone (.withdrawalReport i p b.ref) [] [] s t)

/-- R21, R23: the revocation of a SHARED copy excludes its port and asks for a re-offer slot while a target is ATTACHED and not
excluded, else converts the batch for a usable fallback, else discards it with last outcome EXPIRED and an EXPIRED notice to an
ATTACHED owner; a DIRECT or FALLBACK batch returns with last outcome REVOKED; a BROADCAST copy is dropped as done, and the batch
completes with the last (R22). -/
def Obligations.RevokedReports : Prop :=
  ∀ (i : SourceId) (p : Port) (kind : Form) (b : Batch) (s : State),
    let c := Instr.revokedReport i p b.ref kind
    let r := s.src i
    s.crst = false → r.batch = some b → b.copy p = .inService → r.state = .active →
    (b.form = .shared →
      let excluded := withPort b.excluded p
      (∀ q, portIn q r.routing.targets = true → (s.port q).pstate = .attached → portIn q excluded = false →
        ∃ t, exec c s = .next t ∧
          t.src i = { r with
            batch := some { b.setCopy p .noCopy with excluded := excluded }
            slotRequest := some r.nextRequest, nextRequest := r.nextRequest + 1 } ∧
          otherSources i s t ∧
          eventDone c [.slotRequest i (.reOffer b.ref) r.nextRequest r.routing.priority b.stamp] [.sources] s t) ∧
      ((∀ q, portIn q r.routing.targets = true → (s.port q).pstate = .attached → portIn q excluded = true) →
        (∀ f, r.routing.fallback = some f → (s.port f).pstate = .attached → portIn f excluded = false →
          ∃ t b', exec c s = .next t ∧ t.src i = { r with batch := some b' } ∧
            convertedTo f (b.setCopy p .noCopy) b' ∧ otherSources i s t ∧
            eventDone c [.placement f (fallbackPlacement i b)] [.sources] s t) ∧
        ((∀ f, r.routing.fallback = some f → (s.port f).pstate = .attached → portIn f excluded = true) →
          b.offer = none → r.slotRequest = none →
          (∀ trigger settle, r.routing.kind = .line trigger settle → r.words = [] →
            (r.pending = 0 ∨ s.runState = .stopped) → ∃ t sent, exec c s = .next t ∧
              t.src i = { r with
                batch := none, lastOutcome := .expired, state := if r.pending = 0 then .idle else .waiting } ∧
              otherSources i s t ∧ expiredNotice s i sent ∧ eventDone c sent [.sources] s t) ∧
          (∀ depth raisers w ws, r.routing.kind = .soft depth raisers → r.words = w :: ws →
            (ws = [] ∨ s.runState = .stopped) → ∃ t sent, exec c s = .next t ∧
              t.src i = { r with
                batch := none, lastOutcome := .expired, words := ws, state := if ws = [] then .idle else .waiting } ∧
              t.poolFree = s.poolFree + 1 ∧ otherSources i s t ∧ expiredNotice s i sent ∧
              eventDone c sent [.sources, .pool] s t)))) ∧
    ((b.form = .direct ∨ b.form = .fallback) → s.runState = .stopped →
      ∀ trigger settle, r.routing.kind = .line trigger settle →
      ∃ t, exec c s = .next t ∧
        t.src i = { r with
          batch := none, lastOutcome := .revoked, state := .waiting,
          pending := min 255 (b.count + r.pending)
          overrun := decide (255 < b.count + r.pending) || b.overrun || r.overrun
          firstStamp := some b.stamp } ∧
        otherSources i s t ∧ eventDone c [] [.sources] s t) ∧
    (b.form = .broadcast →
      (∀ q, q ≠ p → outstanding (b.copy q) = true → ∃ t, exec c s = .next t ∧
        t.src i = { r with batch := some (b.setCopy p .done) } ∧ otherSources i s t ∧ eventDone c [] [.sources] s t) ∧
      ((∀ q, q ≠ p → b.copy q = .noCopy ∨ b.copy q = .done) → b.offer = none → r.slotRequest = none →
        ∀ l trigger settle, i = sourceOfLine l → r.routing.kind = .line trigger settle → r.words = [] →
        (r.pending = 0 ∨ s.runState = .stopped) → ∃ t, exec c s = .next t ∧
          t.src i = { r with
            batch := none, lastOutcome := .delivered, state := if r.pending = 0 then .idle else .waiting } ∧
          otherSources i s t ∧ eventDone c [.completionReport l] [.sources] s t))

/-- R19: a claim-granted report puts the winner's copy IN_SERVICE, the other candidates' copies at NONE and removes the offer
reference; a candidate-lost report makes that copy NONE and does not exclude the port. R94: a claim-granted report for a copy
that is NONE, or whose batch has ended, has the delivery removed from its slot. -/
def Obligations.OfferReports : Prop :=
  (∀ (i : SourceId) (p : Port) (b : Batch) (s : State),
     s.crst = false → (s.src i).batch = some b → b.copy p = .offered →
     (∃ t b', exec (.claimGranted i b.ref p) s = .next t ∧ t.src i = { s.src i with batch := some b' } ∧
       (∀ q, b'.copy q = if q = p then .inService else if b.copy q = .offered then .noCopy else b.copy q) ∧
       b' = { b with copies := b'.copies, offer := none } ∧ otherSources i s t ∧
       eventDone (.claimGranted i b.ref p) [] [.sources] s t) ∧
     (∃ t, exec (.candidateLost i b.ref p) s = .next t ∧
       t.src i = { s.src i with batch := some (b.setCopy p .noCopy) } ∧ otherSources i s t ∧
       eventDone (.candidateLost i b.ref p) [] [.sources] s t)) ∧
  (∀ (i : SourceId) (ref : Nat) (p : Port) (s : State), s.crst = false →
     (∀ b, (s.src i).batch = some b → b.ref = ref → b.copy p = .noCopy) →
     ∃ t, exec (.claimGranted i ref p) s = .next t ∧
       eventDone (.claimGranted i ref p) [.removalRequest p i ref] [] s t)

/-- R20, R24: an expiry report converts the batch to FALLBACK, its count, stamp, payload and reference kept, or discards it with
last outcome EXPIRED; one for a batch that has ended is ignored (R101). -/
def Obligations.ExpiryReports : Prop :=
  ∀ (i : SourceId) (ref : Nat) (cause : ExpiryCause) (s : State), s.crst = false →
    (∀ b f k, (s.src i).batch = some b → b.ref = ref → b.offer = some k → (s.src i).routing.fallback = some f →
      ∃ t b', exec (.expiryReport i ref true cause) s = .next t ∧ t.src i = { s.src i with batch := some b' } ∧
        convertedTo f b b' ∧ otherSources i s t ∧
        eventDone (.expiryReport i ref true cause) [.placement f (fallbackPlacement i b)] [.sources] s t) ∧
    (∀ b k trigger settle, (s.src i).batch = some b → b.ref = ref → b.offer = some k → b.form = .shared →
      (s.src i).slotRequest = none → (s.src i).routing.kind = .line trigger settle → (s.src i).words = [] →
      ((s.src i).pending = 0 ∨ s.runState = .stopped) →
      ∃ t, exec (.expiryReport i ref false cause) s = .next t ∧
        t.src i = { s.src i with
          batch := none, lastOutcome := .expired, state := if (s.src i).pending = 0 then .idle else .waiting } ∧
        otherSources i s t ∧ eventDone (.expiryReport i ref false cause) [] [.sources] s t) ∧
    (∀ converted, (∀ b, (s.src i).batch = some b → b.ref ≠ ref) →
      ∃ t, exec (.expiryReport i ref converted cause) s = .next t ∧
        eventDone (.expiryReport i ref converted cause) [] [] s t)

/-- R15, R11, R48: a FIRST grant that names the standing request forms the SHARED batch of a WAITING source and opens it to the
ATTACHED targets; with no target ATTACHED it is declined, and the last resort of R14 follows; taken while STOPPED it is declined
and leaves the source WAITING with no request. R15, R102, R21: a RE-OFFER grant opens the batch to the ATTACHED targets that are
not excluded; with none it is declined, and the batch goes to a usable fallback or is discarded; with its batch ended it is
declined. A grant that does not name the standing request is declined and leaves the record as it was. That a FIRST grant reads
a port whose attach report has not arrived as not ATTACHED is log 19 (DEDUCED); that the offer reference and the OFFERED
copies stand from this answer on, before GRANT_OPEN, is log 21 (DESIGN CHOICE). -/
def Obligations.SlotGrants : Prop :=
  ∀ (k : SlotId) (i : SourceId) (req : Nat) (s : State), s.crst = false →
    let r := s.src i
    let first := Instr.slotGrant k i .first req
    (r.slotRequest = some req → r.state = .waiting →
      (s.runState = .running → pendingCount r ≠ 0 →
        (∀ candidates, (∀ q, portIn q candidates = true ↔ portIn q r.routing.targets = true ∧ seen s q) →
          candidates ≠ 0#4 → ∃ t b, exec first s = .next t ∧
            t.src i = { r with
              state := .active, batch := some b, pending := 0, overrun := false, firstStamp := none,
              slotRequest := none, nextRef := r.nextRef + 1 } ∧
            b = { ref := r.nextRef, count := (pendingFields r).count, overrun := (pendingFields r).overrun,
                  stamp := (pendingFields r).stamp, payload := (pendingFields r).payload, form := .shared,
                  priority := r.routing.priority, copies := b.copies, excluded := 0#4, offer := some k } ∧
            (∀ q, b.copy q = if portIn q candidates then .offered else .noCopy) ∧ otherSources i s t ∧
            eventDone first [.grantOpen k i r.nextRef r.routing.priority candidates 0#4 (pendingFields r)] [.sources]
              s t) ∧
        ((∀ q, portIn q r.routing.targets = true → ¬ seen s q) → ∃ t sent, exec first s = .next t ∧
          lastResort (seen s) i { r with slotRequest := none } (t.src i) sent ∧ otherSources i s t ∧
          eventDone first ([.grantDecline k] ++ sent) [.sources] s t)) ∧
      (s.runState = .stopped → ∃ t, exec first s = .next t ∧
        t.src i = { r with slotRequest := none } ∧ otherSources i s t ∧
        eventDone first [.grantDecline k] [.sources] s t)) ∧
    (∀ b, r.slotRequest = some req → r.batch = some b →
      let c := Instr.slotGrant k i (.reOffer b.ref) req
      (∀ candidates, (∀ q, portIn q candidates = true ↔
          portIn q r.routing.targets = true ∧ (s.port q).pstate = .attached ∧ portIn q b.excluded = false) →
        (candidates ≠ 0#4 → ∃ t b', exec c s = .next t ∧
          t.src i = { r with slotRequest := none, batch := some b' } ∧
          b' = { b with copies := b'.copies, offer := some k } ∧
          (∀ q, b'.copy q = if portIn q candidates then .offered else b.copy q) ∧ otherSources i s t ∧
          eventDone c
            [.grantOpen k i b.ref b.priority candidates b.excluded
              { count := b.count, overrun := b.overrun, stamp := b.stamp, payload := b.payload }] [.sources] s t) ∧
        (candidates = 0#4 →
          (∀ f, r.routing.fallback = some f → (s.port f).pstate = .attached → portIn f b.excluded = false →
            ∃ t b', exec c s = .next t ∧ t.src i = { r with slotRequest := none, batch := some b' } ∧
              convertedTo f b b' ∧ otherSources i s t ∧
              eventDone c [.grantDecline k, .placement f (fallbackPlacement i b)] [.sources] s t) ∧
          ((∀ f, r.routing.fallback = some f → (s.port f).pstate = .attached → portIn f b.excluded = true) →
            b.form = .shared → b.offer = none → ∀ trigger settle, r.routing.kind = .line trigger settle →
            r.words = [] → (r.pending = 0 ∨ s.runState = .stopped) → ∃ t sent, exec c s = .next t ∧
              t.src i = { r with
                slotRequest := none, batch := none, lastOutcome := .expired,
                state := if r.pending = 0 then .idle else .waiting } ∧
              otherSources i s t ∧ expiredNotice s i sent ∧
              eventDone c ([.grantDecline k] ++ sent) [.sources] s t)))) ∧
    (∀ ref, r.slotRequest = some req → (∀ b, r.batch = some b → b.ref ≠ ref) →
      ∃ t, exec (.slotGrant k i (.reOffer ref) req) s = .next t ∧ t.src i = { r with slotRequest := none } ∧
        otherSources i s t ∧ eventDone (.slotGrant k i (.reOffer ref) req) [.grantDecline k] [.sources] s t) ∧
    (∀ kind, r.slotRequest ≠ some req → ∃ t, exec (.slotGrant k i kind req) s = .next t ∧
      eventDone (.slotGrant k i kind req) [.grantDecline k] [] s t)

/-! ## Offer Arbiter -/

/-- R84, R87: a slot request takes the lowest FREE slot and is granted, or joins the request list; a cancel removes exactly the
request of that source and reference from the list. -/
def Obligations.SlotRequests : Prop :=
  (∀ (i : SourceId) (kind : RequestKind) (req : Nat) (priority : Priority) (stamp : Time) (s : State), s.crst = false →
    (∀ k, s.offer k = .free → (∀ j, j < k → s.offer j ≠ .free) →
      ∃ t, exec (.slotRequest i kind req priority stamp) s = .next t ∧ t.offer k = .reserved i kind req ∧
        otherOffers k s t ∧
        eventDone (.slotRequest i kind req priority stamp) [.slotGrant k i kind req] [.offers] s t) ∧
    ((∀ k, s.offer k ≠ .free) → ∃ t, exec (.slotRequest i kind req priority stamp) s = .next t ∧
      t.requests = s.requests ++
        [{ source := i, kind := kind, req := req, priority := priority, stamp := stamp }] ∧
      eventDone (.slotRequest i kind req priority stamp) [] [.requests] s t)) ∧
  (∀ (i : SourceId) (req : Nat) (s : State), s.crst = false →
    ∃ t, exec (.slotRequestCancel i req) s = .next t ∧
      (∀ r, r ∈ t.requests ↔ r ∈ s.requests ∧ ¬ (r.source = i ∧ r.req = req)) ∧ t.requests.Sublist s.requests ∧
      eventDone (.slotRequestCancel i req) [] [.requests] s t)

/-- R85: the arbiter's choice is a request of the list; every request that arrived before it ranks strictly after it, and none
that arrived later ranks before it; the ranking is RE-OFFER first, then priority, then the greater age of the stamp. While a
slot is FREE and a request waits, it reserves the lowest FREE slot for its choice, sends the grant, and repeats. -/
def Obligations.SlotArbiter : Prop :=
  ((∀ (now : Time) (requests : List Request) (r : Request), bestRequest now requests = some r →
     ∃ earlier later, requests = earlier ++ r :: later ∧
       (∀ x ∈ earlier, grantedBefore now r x = true) ∧ (∀ x ∈ later, grantedBefore now x r = false)) ∧
   (∀ (now : Time) (requests : List Request), requests ≠ [] → ∃ r, bestRequest now requests = some r) ∧
   (∀ (now : Time) (a b : Request), grantedBefore now a b = true ↔
     isReOffer a.kind = true ∧ isReOffer b.kind = false ∨
     isReOffer a.kind = isReOffer b.kind ∧
       (a.priority < b.priority ∨
         a.priority = b.priority ∧ (now - b.stamp).toNat < (now - a.stamp).toNat))) ∧
  (∀ s : State,
     (s.requests = [] → runArbiter s = s) ∧ ((∀ k, s.offer k ≠ .free) → runArbiter s = s) ∧
     (∀ k r, s.offer k = .free → (∀ j, j < k → s.offer j ≠ .free) → bestRequest s.time s.requests = some r →
       runArbiter s = runArbiter (({ s with requests := s.requests.erase r }.setOffer k
         (.reserved r.source r.kind r.req)).send [.slotGrant k r.source r.kind r.req])))

/-- R86, R88: an open answer fills the RESERVED slot with the offer's record and sends each candidate its placement; a decline
frees the slot, and the arbiter runs; either leaves a slot that is not RESERVED as it was. -/
def Obligations.GrantAnswers : Prop :=
  ∀ (k : SlotId) (s : State), s.crst = false →
    (∀ i kind req, s.offer k = .reserved i kind req →
      (∀ j ref priority candidates excluded fields,
        ∃ t, exec (.grantOpen k j ref priority candidates excluded fields) s = .next t ∧
          t.offer k = .opened
            { source := j, ref := ref, round := 1 + (portsOf excluded).length, priority := priority,
              candidates := candidates, holders := 0#4, owed := candidates, opened := s.time,
              deadline := s.time + BitVec.ofNat 32 (s.window.toNat * 1000) } ∧
          otherOffers k s t ∧
          eventDone (.grantOpen k j ref priority candidates excluded fields)
            ((portsOf candidates).map fun p =>
              .placement p { id := { source := j, kind := .offer (1 + (portsOf excluded).length), ref := ref }
                             priority := priority, fields := fields }) [.offers] s t) ∧
      (∃ u, exec (.grantDecline k) s = .next (judgeAttn (runArbiter u)) ∧ u.offer k = .free ∧ otherOffers k s u ∧
        u.inFlight = s.inFlight.erase (.grantDecline k) ∧ sameBut [.offers, .messages] s u)) ∧
    ((∀ i kind req, s.offer k ≠ .reserved i kind req) →
      (∃ t, exec (.grantDecline k) s = .next t ∧ eventDone (.grantDecline k) [] [] s t) ∧
      (∀ j ref priority candidates excluded fields,
        ∃ t, exec (.grantOpen k j ref priority candidates excluded fields) s = .next t ∧
          eventDone (.grantOpen k j ref priority candidates excluded fields) [] [] s t))

/-- R90, R91, R92: a claim of an open offer's source, batch, round and candidate closes the offer, reports the grant before it
answers it, withdraws the other candidates' placements and frees the slot; any other claim is answered LOST and changes
nothing else. -/
def Obligations.ClaimsGrantedOrLost : Prop :=
  ∀ (p : Port) (i : SourceId) (ref round : Nat) (s : State), s.crst = false →
    (∀ k o, s.offer k = .opened o → o.source = i → o.ref = ref → o.round = round → portIn p o.candidates = true →
      (∀ j o', s.offer j = .opened o' → o'.source = i → j = k) →
      ∃ u, exec (.claim p i ref round) s = .next (judgeAttn (runArbiter u)) ∧ u.offer k = .free ∧ otherOffers k s u ∧
        u.inFlight = s.inFlight.erase (.claim p i ref round) ++
          ([.claimGranted i ref p, .claimAnswer p i ref round true] ++
            ((allPorts.filter fun q => portIn q o.candidates && q ≠ p).map fun q =>
              .withdrawalRequest q { source := i, kind := .offer round, ref := ref })) ∧
        sameBut [.offers, .messages] s u) ∧
    ((∀ k o, s.offer k = .opened o → ¬ (o.source = i ∧ o.ref = ref ∧ o.round = round ∧ portIn p o.candidates = true)) →
      ∃ t, exec (.claim p i ref round) s = .next t ∧
        eventDone (.claim p i ref round) [.claimAnswer p i ref round false] [] s t)

/-- R89, R99: an admission report moves a candidate from the owed set to the entry holders; a candidate loss removes the port
from every set and is reported, and the offer stays open while a candidate remains. -/
def Obligations.CandidateReports : Prop :=
  ∀ (k : SlotId) (o : Offer) (p : Port) (s : State), s.crst = false → s.offer k = .opened o →
    (∀ j o', s.offer j = .opened o' → o'.source = o.source → j = k) →
    (portIn p o.owed = true → ∃ t, exec (.offerAdmissionReport o.source p o.round) s = .next t ∧
      t.offer k = .opened { o with owed := withoutPort o.owed p, holders := withPort o.holders p } ∧
      otherOffers k s t ∧ eventDone (.offerAdmissionReport o.source p o.round) [] [.offers] s t) ∧
    (portIn p o.candidates = true → withoutPort o.candidates p ≠ 0#4 →
      ∃ t, exec (.candidateLoss o.source o.ref o.round p) s = .next t ∧
        t.offer k = .opened { o with
          candidates := withoutPort o.candidates p, holders := withoutPort o.holders p,
          owed := withoutPort o.owed p } ∧
        otherOffers k s t ∧
        eventDone (.candidateLoss o.source o.ref o.round p) [.candidateLost o.source o.ref p] [.offers] s t)

/-- R96, R98, R100, R101: an offer that reaches its deadline or loses its last candidate closes: withdrawals to the candidates,
an expiry report naming the outcome by whether the fallback is usable (named, ATTACHED and not in the batch's exclusion set),
and an EXPIRED notice to the owner if it is not. A close request closes it with the withdrawals alone. That a fallback is not
excluded once the batch has ended is log 17 (DESIGN CHOICE), and that a deadline counts as reached when its age is below 2^31 is
log 5 (DEDUCED). -/
def Obligations.OffersClose : Prop :=
  ∀ (k : SlotId) (o : Offer) (usable : Bool) (s : State), s.crst = false → s.offer k = .opened o →
    (∀ j o', s.offer j = .opened o' → o'.source = o.source → j = k) →
    (usable = true ↔ ∃ f, (s.src o.source).routing.fallback = some f ∧ (s.port f).pstate = .attached ∧
      ∀ b, (s.src o.source).batch = some b → b.ref = o.ref → portIn f b.excluded = false) →
    let withdrawals := (portsOf o.candidates).map fun q =>
      Instr.withdrawalRequest q { source := o.source, kind := .offer o.round, ref := o.ref }
    let notice : List Instr := if usable then [] else
      match (s.src o.source).owner with
      | some w => [.noticePosting w .expired (.source o.source)]
      | none => []
    (reached s.time o.deadline = true → ∃ u, exec (.offerExpiry k) s = .next (judgeAttn (runArbiter u)) ∧
      u.offer k = .free ∧ otherOffers k s u ∧
      u.inFlight = s.inFlight.erase (.offerExpiry k) ++
        (withdrawals ++ [.expiryReport o.source o.ref usable .deadline] ++ notice) ∧
      sameBut [.offers, .messages] s u) ∧
    (∀ p, o.candidates = onePort p → ∃ u,
      exec (.candidateLoss o.source o.ref o.round p) s = .next (judgeAttn (runArbiter u)) ∧
      u.offer k = .free ∧ otherOffers k s u ∧
      u.inFlight = s.inFlight.erase (.candidateLoss o.source o.ref o.round p) ++
        ([.candidateLost o.source o.ref p, .expiryReport o.source o.ref usable .lastCandidateLost] ++ notice) ∧
      sameBut [.offers, .messages] s u) ∧
    (∃ u, exec (.closeRequest o.source o.ref) s = .next (judgeAttn (runArbiter u)) ∧ u.offer k = .free ∧
      otherOffers k s u ∧ u.inFlight = s.inFlight.erase (.closeRequest o.source o.ref) ++ withdrawals ∧
      sameBut [.offers, .messages] s u)

/-! ## Delivery Units: the queue -/

/-- R62, R64, R65: a placement at an ATTACHED port replaces an older item of its source without a report; with nothing else
owed it is admitted and reported while an entry is free, and waits as owed while all 16 are in use; where other placements are
owed and the replaced item freed an entry, it is admitted at once, or it is owed after the arbiter has filled that entry, as if
the withdrawal had come first (R65 says both, and the free value of log 9 chooses: this holds for either). At any other port it
is reported back and not kept. -/
def Obligations.PlacementArrives : Prop :=
  ∀ (p : Port) (e : Placement) (s : State), s.crst = false →
    let d := s.unit p
    let kept := d.entries.filter (·.id.source ≠ e.id.source)
    let owedKept := d.owed.filter (·.entry.id.source ≠ e.id.source)
    let reports : List Instr := match e.id.kind with
      | .offer round => [.offerAdmissionReport e.id.source p round, .admittedReport e.id.source p e.id.ref]
      | _ => [.admittedReport e.id.source p e.id.ref]
    ((s.port p).pstate = .attached → owedKept = [] → kept.length < 16 → ∃ t, exec (.placement p e) s = .next t ∧
      t.unit p = { d with entries := kept ++ [e], owed := [] } ∧ otherUnits p s t ∧
      eventDone (.placement p e) reports [.units] s t) ∧
    ((s.port p).pstate = .attached → 16 ≤ kept.length → ∃ t, exec (.placement p e) s = .next t ∧
      t.unit p = { d with entries := kept, owed := owedKept ++ [{ entry := e, since := s.time }] } ∧
      otherUnits p s t ∧ eventDone (.placement p e) [] [.units] s t) ∧
    ((s.port p).pstate = .attached → owedKept ≠ [] → kept.length < 16 →
      let atOnce := admissions s.time p owedKept.length { d with entries := kept ++ [e], owed := owedKept }
      let filled := admissions s.time p owedKept.length { d with entries := kept, owed := owedKept }
      let last := admissions s.time p (filled.1.owed.length + 1)
        { filled.1 with owed := filled.1.owed ++ [{ entry := e, since := s.time }] }
      ∃ t sent, exec (.placement p e) s = .next t ∧ otherUnits p s t ∧ eventDone (.placement p e) sent [.units] s t ∧
        (t.unit p = atOnce.1 ∧ sent = reports ++ atOnce.2 ∨ t.unit p = last.1 ∧ sent = filled.2 ++ last.2)) ∧
    ((s.port p).pstate ≠ .attached → ∃ t, exec (.placement p e) s = .next t ∧
      eventDone (.placement p e)
        (match e.id.kind with
          | .offer round => [.candidateLoss e.id.source e.id.ref round p]
          | _ => [.withdrawalReport e.id.source p e.id.ref]) [] s t)

/-- R66: a withdrawal request removes the entry of that identity and the arbiter runs, or the owed placement of that identity,
or finds nothing; nothing is reported back to its sender. -/
def Obligations.WithdrawalRequests : Prop :=
  ∀ (p : Port) (id : EntryId) (s : State), s.crst = false →
    let d := s.unit p
    ((∃ e ∈ d.entries, e.id = id) → ∃ t, exec (.withdrawalRequest p id) s = .next t ∧
      t.unit p = (admissions s.time p d.owed.length { d with entries := d.entries.filter (·.id ≠ id) }).1 ∧
      otherUnits p s t ∧
      eventDone (.withdrawalRequest p id)
        (admissions s.time p d.owed.length { d with entries := d.entries.filter (·.id ≠ id) }).2 [.units] s t) ∧
    ((∀ e ∈ d.entries, e.id ≠ id) → ∃ t, exec (.withdrawalRequest p id) s = .next t ∧
      t.unit p = { d with owed := d.owed.filter (·.entry.id ≠ id) } ∧ otherUnits p s t ∧
      eventDone (.withdrawalRequest p id) [] [.units] s t)

/-- R60, R61: the first visible item is the notice first posted, and with no notice the visible entry of the highest priority,
among equals the one admitted first; a notice is always visible, an entry while its priority is in the mask. R63: the arbiter's
choice among the owed placements: every placement taken before it ranks strictly after it, none taken later ranks before it,
by priority and then by the greater age of owed-since; there is a choice whenever something is owed. R64: while an entry is
free the arbiter moves its choice to the end of the entries, reports it and repeats, and otherwise does nothing. -/
def Obligations.QueueOrderAndAdmission : Prop :=
  (∀ d : DeliveryUnit,
     (∀ n rest, d.notices = n :: rest → firstVisible d = some (.notice n)) ∧
     (d.notices = [] → (∀ e ∈ d.entries, priorityIn e.priority d.mask = false) → firstVisible d = none) ∧
     (∀ e earlier later, d.notices = [] → d.entries = earlier ++ e :: later → priorityIn e.priority d.mask = true →
       (∀ x ∈ earlier, priorityIn x.priority d.mask = true → e.priority < x.priority) →
       (∀ x ∈ later, priorityIn x.priority d.mask = true → e.priority ≤ x.priority) →
       firstVisible d = some (.entry e))) ∧
  ((∀ (now : Time) (owed : List Owed) (o : Owed), bestOwed now owed = some o →
     ∃ earlier later, owed = earlier ++ o :: later ∧
       (∀ x ∈ earlier, admittedBefore now o x = true) ∧ (∀ x ∈ later, admittedBefore now x o = false)) ∧
   (∀ (now : Time) (owed : List Owed), owed ≠ [] → ∃ o, bestOwed now owed = some o) ∧
   (∀ (now : Time) (p : Port) (n : Nat) (d : DeliveryUnit),
     (16 ≤ d.entries.length ∨ d.owed = [] → admissions now p n d = (d, [])) ∧
     (∀ o, d.entries.length < 16 → bestOwed now d.owed = some o →
       let rest := admissions now p n { d with entries := d.entries ++ [o.entry], owed := d.owed.erase o }
       admissions now p (n + 1) d = (rest.1, admissionReports p o.entry ++ rest.2))) ∧
   (∀ (p : Port) (e : Placement), admissionReports p e =
     match e.id.kind with
     | .offer round => [.offerAdmissionReport e.id.source p round, .admittedReport e.id.source p e.id.ref]
     | _ => [.admittedReport e.id.source p e.id.ref]) ∧
   (∀ (now : Time) (a b : Owed), admittedBefore now a b = true ↔
     a.entry.priority < b.entry.priority ∨
       a.entry.priority = b.entry.priority ∧ (now - b.since).toNat < (now - a.since).toNat) ∧
   (∀ (now : Time) (p : Port) (d : DeliveryUnit),
     let r := admissions now p d.owed.length d
     (r.1.entries.length < 16 → r.1.owed = []) ∧ (d.entries.length ≤ 16 → r.1.entries.length ≤ 16) ∧
     ∃ admitted : List Owed, r.1 = { d with entries := d.entries ++ admitted.map (·.entry), owed := r.1.owed } ∧
       (admitted ++ r.1.owed).Perm d.owed ∧ r.2 = admitted.flatMap (fun o => admissionReports p o.entry)))

/-- R75: a posting is dropped at a port that is not ATTACHED; in an empty slot it starts a notice of count 1 at the end; in an
occupied one it raises the count, to 255 at most, replaces the subject and keeps stamp and place. -/
def Obligations.NoticePostings : Prop :=
  ∀ (p : Port) (kind : NoticeKind) (subject : Subject) (s : State), s.crst = false →
    ((s.port p).pstate ≠ .attached → ∃ t, exec (.noticePosting p kind subject) s = .next t ∧
      eventDone (.noticePosting p kind subject) [] [] s t) ∧
    ((s.port p).pstate = .attached → (∀ n ∈ (s.unit p).notices, n.kind ≠ kind) →
      ∃ t, exec (.noticePosting p kind subject) s = .next t ∧
        t.unit p = { s.unit p with
          notices := (s.unit p).notices ++ [{ kind := kind, count := 1, subject := subject, stamp := s.time }] } ∧
        otherUnits p s t ∧ eventDone (.noticePosting p kind subject) [] [.units] s t) ∧
    (∀ earlier n later, (s.port p).pstate = .attached → (s.unit p).notices = earlier ++ n :: later → n.kind = kind →
      (∀ x ∈ earlier ++ later, x.kind ≠ kind) → ∃ t, exec (.noticePosting p kind subject) s = .next t ∧
        t.unit p = { s.unit p with
          notices := earlier ++ { n with count := min 255 (n.count + 1), subject := subject } :: later } ∧
        otherUnits p s t ∧ eventDone (.noticePosting p kind subject) [] [.units] s t)

/-! ## Delivery Units: service -/

/-- R113, R116: an expired service deadline frees the slot, lists the number, posts REVOKED to the unit's own notices and
reports the revocation; a removal request frees the slot and lists the number with no notice and no report, and with the
delivery in no slot it marks the claim of that batch. That a deadline counts as reached when its age is below 2^31 is log 5
(DEDUCED); that an expiry of a deadline still ahead has no effect is log 4 (DESIGN CHOICE). -/
def Obligations.DeliveriesEndWithoutDone : Prop :=
  (∀ (p : Port) (k : ServiceSlotId) (r : ServiceRecord) (s : State), s.crst = false → (s.unit p).slot k = .held r →
    let listed := (if 4 ≤ (s.unit p).revoked.length then (s.unit p).revoked.tail else (s.unit p).revoked) ++ [r.seq]
    (∀ deadline, r.deadline = some deadline → reached s.time deadline = true → (s.port p).pstate = .attached →
      ∃ t, exec (.serviceDeadlineExpiry p k) s = .next t ∧
        t.unit p = { (s.unit p).setSlot k .free with
          revoked := listed, notices := addNotice s.time .revoked (.source r.source) (s.unit p).notices } ∧
        otherUnits p s t ∧
        eventDone (.serviceDeadlineExpiry p k) [.revokedReport r.source p r.ref r.kind] [.units] s t) ∧
    ((∀ deadline, r.deadline = some deadline → reached s.time deadline = false) →
      ∃ t, exec (.serviceDeadlineExpiry p k) s = .next t ∧ eventDone (.serviceDeadlineExpiry p k) [] [] s t) ∧
    ((∀ j r', (s.unit p).slot j = .held r' → r'.source = r.source → r'.ref = r.ref → j = k) →
      ∃ t, exec (.removalRequest p r.source r.ref) s = .next t ∧
        t.unit p = { (s.unit p).setSlot k .free with revoked := listed } ∧
        otherUnits p s t ∧ eventDone (.removalRequest p r.source r.ref) [] [.units] s t)) ∧
  (∀ (p : Port) (i : SourceId) (ref : Nat) (s : State), s.crst = false →
    (∀ k r, (s.unit p).slot k = .held r → ¬ (r.source = i ∧ r.ref = ref)) →
    ∃ t, exec (.removalRequest p i ref) s = .next t ∧
      t.unit p = { s.unit p with
        claims := (s.unit p).claims.map fun c =>
          if c.entry.id.source = i ∧ c.entry.id.ref = ref then { c with removal := true } else c } ∧
      otherUnits p s t ∧ eventDone (.removalRequest p i ref) [] [.units] s t)

/-- R74: the counter steps from 255 to 1 and otherwise up by one; the number assigned is neither 0 nor a number in a service slot
or the revoked list, and every number the counter passed on the way to it was in use. -/
def Obligations.SequenceNumberAssigned : Prop :=
  (∀ n : Byte, nextSeq n = if n = 255#8 then 1#8 else n + 1#8) ∧
  (∀ (d : DeliveryUnit) (n : Byte), seqInUse d n = true ↔ n ∈ heldSeqs d ∨ n ∈ d.revoked) ∧
  ∀ d : DeliveryUnit, d.revoked.length ≤ 4 →
    assignedSeq d ≠ 0#8 ∧ assignedSeq d ∉ heldSeqs d ∧ assignedSeq d ∉ d.revoked ∧
    ∃ n : Nat, n < 255 ∧ assignedSeq d = nextSeq^[n + 1] d.seq ∧ ∀ m, m < n → seqInUse d (nextSeq^[m + 1] d.seq) = true

/-- R72, R107, R117: a GRANT puts the delivery in the reserved slot with the next number and kind SHARED and answers the TAKE OK;
with a removal mark the number goes to the revoked list instead; LOST releases the slot and answers LOST with the offer's
source. A frame whose gap byte has been clocked by then keeps the fill (R174). R73, R180: the answer to a claim of an ended
session releases the slot; a GRANT is reported revoked, and the TAKE that still waits leaves status EVICTED in the store, its
frame carrying the fill. -/
def Obligations.ClaimAnswers : Prop :=
  (∀ (p : Port) (c : Claim) (f : Frame) (round : Nat) (s : State),
     s.crst = false → takeAwaits p c f s → c.ended = false → c.entry.id.kind = .offer round →
     let i := c.entry.id.source
     let d := s.unit p
     let n := assignedSeq d
     let replies := fun a : Answer =>
       { s.port p with
         running := none, frames := (s.port p).frames + 1,
         frame := some (.answering { f with
           response := if f.clocked = 0 then driven p (s.port p) a else notReadyFill a.data.length, awaiting := false })
         store := some { code := 0x11#8, args := [], status := a.status, data := a.data } }
     let okRecord : Answer := { status := .ok, data := deliveryRecord 2#8 i n c.entry.fields }
     (c.removal = false → ∃ t, exec (.claimAnswer p i c.entry.id.ref round true) s = .next t ∧
       t.unit p = { d.setSlot c.slot (.held
           { seq := n, source := i, kind := .shared, ref := c.entry.id.ref, taken := s.time,
             deadline := if d.limit = 0#16 then none else some (s.time + BitVec.ofNat 32 (d.limit.toNat * 1000)) }) with
         claims := d.claims.erase c, seq := n, gateOpen := d.gateOpen && !d.gateOnTake } ∧
       t.port p = replies okRecord ∧ otherUnits p s t ∧ otherPorts p s t ∧
       eventDone (.claimAnswer p i c.entry.id.ref round true) [] [.units, .ports] s t) ∧
     (c.removal = true → ∃ t, exec (.claimAnswer p i c.entry.id.ref round true) s = .next t ∧
       t.unit p = { d.setSlot c.slot .free with
         claims := d.claims.erase c, seq := n, gateOpen := d.gateOpen && !d.gateOnTake,
         revoked := (if 4 ≤ d.revoked.length then d.revoked.tail else d.revoked) ++ [n] } ∧
       t.port p = replies okRecord ∧ otherUnits p s t ∧ otherPorts p s t ∧
       eventDone (.claimAnswer p i c.entry.id.ref round true) [] [.units, .ports] s t) ∧
     (∃ t, exec (.claimAnswer p i c.entry.id.ref round false) s = .next t ∧
       t.unit p = { d.setSlot c.slot .free with claims := d.claims.erase c } ∧
       t.port p = replies { status := .lost, data := [0#8, BitVec.ofNat 8 i.val] ++ zeros 9 } ∧
       otherUnits p s t ∧ otherPorts p s t ∧
       eventDone (.claimAnswer p i c.entry.id.ref round false) [] [.units, .ports] s t)) ∧
  (∀ (p : Port) (c : Claim) (f : Frame) (round : Nat) (granted : Bool) (s : State),
     s.crst = false → takeAwaits p c f s → c.ended = true → c.entry.id.kind = .offer round →
     ∃ t, exec (.claimAnswer p c.entry.id.source c.entry.id.ref round granted) s = .next t ∧
       t.unit p = { (s.unit p).setSlot c.slot .free with claims := (s.unit p).claims.erase c } ∧
       t.port p = { s.port p with
         running := none, frame := some (.answering { f with awaiting := false })
         store := some { code := 0x11#8, args := [], status := .evicted, data := zeros 11 } } ∧
       otherUnits p s t ∧ otherPorts p s t ∧
       eventDone (.claimAnswer p c.entry.id.source c.entry.id.ref round granted)
         (if granted then [.revokedReport c.entry.id.source p c.entry.id.ref .shared] else []) [.units, .ports] s t)

/-! ## Commands: observation -/

/-- R137, R171, R41, R184: what STATUS, READ_LINES, READ_TIME and READ_IDENT show, with R184's codes of the port states. They
change nothing but the frame and the last-response store of their port. -/
def Obligations.BlockStateShown : Prop :=
  [PortState.detached, .attached, .evicted].map portStateCode = [0#8, 1#8, 2#8] ∧
  ∀ (p : Port) (s : State), frameReady p s = true →
    (∃ t, exec (.status p) s = .next t ∧
      repliedWith (.status p) p
        { status := .ok,
          data := [portStateCode (s.port p).pstate, (s.port p).tag.extractLsb' 8 8, (s.port p).tag.extractLsb' 0 8,
            portStateCode (s.port 0).pstate ||| portStateCode (s.port 1).pstate <<< 2 |||
              portStateCode (s.port 2).pstate <<< 4 ||| portStateCode (s.port 3).pstate <<< 6,
            BitVec.ofNat 8 s.poolFree, (match s.steering with | some q => BitVec.ofNat 8 q.val | none => 63#8),
            (match s.runState with | .stopped => 0#8 | .running => 1#8), s.window] } [] s t) ∧
    ((s.port p).pstate ≠ .evicted →
      (∃ t w, exec (.readLines p) s = .next t ∧ (∀ l : LineId, w.getLsbD l.val = (s.line l).settled) ∧
        repliedWith (.readLines p) p { status := .ok, data := bytes4 w } [] s t) ∧
      (∃ t, exec (.readTime p) s = .next t ∧
        repliedWith (.readTime p) p { status := .ok, data := bytes4 s.time } [] s t) ∧
      (∃ t, exec (.readIdent p) s = .next t ∧
        repliedWith (.readIdent p) p
          { status := .ok,
            data := [0x42#8, 0x44#8, 0x04#8, 0x32#8, 1#8,
              (match s.cause with | .power => 0#8 | .chip => 1#8)] } [] s t))

/-- R104, R122, R184: what READ_OFFER and READ_SLOTS show of a slot in each state, and that READ_OFFER refuses a slot number
above 15. R153, R154: the bytes that READ_SOURCE shows of a record, and that it refuses a source id above 47. R182 to R184: the
codes of modes, triggers, forms, source states, outcomes and copies, and the bytes of ports, flags, words and stamps. -/
def Obligations.SlotsAndSourcesShown : Prop :=
  ([Mode.direct, .shared, .broadcast].map modeCode = [1#8, 2#8, 3#8] ∧
   [Trigger.rise, .fall, .both, .high, .low].map triggerCode = [0#8, 1#8, 2#8, 3#8, 4#8] ∧
   [Form.direct, .shared, .broadcast, .fallback].map formCode = [1#8, 2#8, 3#8, 4#8] ∧
   [SourceState.off, .idle, .waiting, .active, .draining].map sourceStateCode = [0#8, 1#8, 2#8, 3#8, 4#8] ∧
   [LastOutcome.noOutcome, .delivered, .expired, .discarded, .revoked, .returned].map outcomeCode =
     [0#8, 1#8, 2#8, 3#8, 4#8, 5#8] ∧
   [CopyState.noCopy, .owed, .queued, .offered, .inService, .done].map copyCode = [0#8, 1#8, 2#8, 3#8, 4#8, 5#8] ∧
   portByte none = 63#8 ∧ (∀ q : Port, portByte (some q) = BitVec.ofNat 8 q.val) ∧
   (∀ n, n < 8 → flagBit true n = BitVec.ofNat 8 (2 ^ n) ∧ flagBit false n = 0#8) ∧
   (∀ w : Word, bytes2 w = [w.extractLsb' 8 8, w.extractLsb' 0 8]) ∧
   (∀ w : Time, bytes4 w = [w.extractLsb' 24 8, w.extractLsb' 16 8, w.extractLsb' 8 8, w.extractLsb' 0 8])) ∧
  (∀ (p : Port) (s : State), frameReady p s = true → (s.port p).pstate ≠ .evicted →
     (∀ k : SlotId, ∃ t, exec (.readOffer p (BitVec.ofNat 8 k.val)) s = .next t ∧
       repliedWith (.readOffer p (BitVec.ofNat 8 k.val)) p
         { status := .ok,
           data := match s.offer k with
             | .free => [0#8, 63#8] ++ zeros 12
             | .reserved i _ _ => [1#8, BitVec.ofNat 8 i.val] ++ zeros 12
             | .opened o =>
               [2#8, BitVec.ofNat 8 o.source.val, BitVec.ofNat 8 o.round, BitVec.ofNat 8 o.priority.val,
                 o.candidates.zeroExtend 8, o.holders.zeroExtend 8 ||| (o.owed.zeroExtend 8 <<< 4)] ++
               bytes4 o.opened ++ bytes4 o.deadline } [] s t) ∧
     (∀ b : Byte, 16 ≤ b.toNat → refusedWith (.readOffer p b) p .badArg s) ∧
     (∃ t, exec (.readSlots p) s = .next t ∧
       repliedWith (.readSlots p) p
         { status := .ok,
           data := slotBytes ((s.unit p).slot 0) ++ slotBytes ((s.unit p).slot 1) ++ slotBytes ((s.unit p).slot 2) ++
             slotBytes ((s.unit p).slot 3) ++
             ((s.unit p).revoked ++ List.replicate (4 - (s.unit p).revoked.length) 0#8) ++
             bytes2 (s.unit p).limit } [] s t) ∧
     slotBytes .free = [0#8, 0#8, 63#8, 0#8] ++ zeros 8 ∧
     (∀ id, slotBytes (.reserved id) = [1#8, 0#8, BitVec.ofNat 8 id.source.val, 0#8] ++ zeros 8) ∧
     (∀ r, slotBytes (.held r) =
       [(if r.deadline.isSome then 0x82#8 else 2#8), r.seq, BitVec.ofNat 8 r.source.val, formCode r.kind] ++
         bytes4 r.taken ++ bytes4 (r.deadline.getD 0#32))) ∧
  (∀ (p : Port) (s : State), frameReady p s = true → (s.port p).pstate ≠ .evicted →
     (∀ i : SourceId,
       let r := s.src i
       ∃ t, exec (.readSource p (BitVec.ofNat 8 i.val)) s = .next t ∧
         repliedWith (.readSource p (BitVec.ofNat 8 i.val)) p
           { status := .ok,
             data :=
               [modeCode r.routing.mode, r.routing.targets.zeroExtend 8, portByte r.routing.fallback,
                 BitVec.ofNat 8 r.routing.priority.val,
                 (match r.routing.kind with | .line g _ => triggerCode g | .soft d _ => BitVec.ofNat 8 d),
                 (match r.routing.kind with | .line _ k => BitVec.ofNat 8 k.val | .soft _ q => q.zeroExtend 8),
                 portByte r.owner,
                 flagBit r.lock 0 ||| flagBit r.enable 1 ||| flagBit r.overrun 2 |||
                   flagBit (firstPending r).isSome 3 ||| flagBit r.batch.isSome 4 |||
                   flagBit (r.batch.any (·.overrun)) 5,
                 sourceStateCode r.state, BitVec.ofNat 8 (pendingCount r)] ++
               bytes4 ((firstPending r).getD 0#32) ++
               [BitVec.ofNat 8 r.words.length, outcomeCode r.lastOutcome] ++
               (match r.batch with
                 | none => zeros 8 ++ [63#8, 0#8, 0#8, 0#8]
                 | some b =>
                   [formCode b.form, BitVec.ofNat 8 b.count] ++ bytes4 b.stamp ++
                   [copyCode (b.copy 0) ||| copyCode (b.copy 1) <<< 4, copyCode (b.copy 2) ||| copyCode (b.copy 3) <<< 4,
                     (match b.offer with | some k => BitVec.ofNat 8 k.val | none => 63#8)] ++
                   bytes2 (match b.payload with | some w => w.word | none => 0#16) ++
                   [(match b.payload with | some w => BitVec.ofNat 8 w.raiser.val | none => 0#8)]) } [] s t) ∧
     (∀ b : Byte, 48 ≤ b.toNat → refusedWith (.readSource p b) p .badArg s))

/-- R68, R179: PEEK shows the first visible item with sequence 0, or EMPTY; REPEAT returns the store, or EMPTY with zeros.
Neither changes any part but the port's frame, and REPEAT leaves the store. R182, R69, R77: the bytes of the record of a delivery
and of a notice, and the kind codes; R185: the status codes. -/
def Obligations.PeekAndRepeat : Prop :=
  ((∀ (kind : Byte) (i : SourceId) (seq : Byte) (f : DeliveryFields),
     (f.payload = none → deliveryRecord kind i seq f =
       [kind, BitVec.ofNat 8 i.val, seq, BitVec.ofNat 8 f.count, if f.overrun then 0x80#8 else 0#8] ++
         bytes4 f.stamp ++ [0#8, 0#8]) ∧
     (∀ w, f.payload = some w → deliveryRecord kind i seq f =
       [kind, BitVec.ofNat 8 i.val, seq, BitVec.ofNat 8 f.count,
         (if f.overrun then 0xC0#8 else 0x40#8) + BitVec.ofNat 8 w.raiser.val] ++
         bytes4 f.stamp ++ [w.word.extractLsb' 8 8, w.word.extractLsb' 0 8])) ∧
   (∀ n : Notice, noticeRecord n =
     [noticeCode n.kind, (match n.subject with
        | .source i => BitVec.ofNat 8 i.val | .port q => BitVec.ofNat 8 q.val | .none => 63#8),
       0#8, BitVec.ofNat 8 n.count, 0#8] ++ bytes4 n.stamp ++ [0#8, 0#8]) ∧
   [EntryKind.direct, .broadcast, .fallback].map entryKindCode = [1#8, 3#8, 4#8] ∧
   (∀ round, entryKindCode (.offer round) = 5#8) ∧
   [NoticeKind.expired, .revoked, .seized, .table, .peer].map noticeCode = [8#8, 9#8, 10#8, 11#8, 12#8] ∧
   [Status.ok, .empty, .lost, .slotsFull, .notHeld, .late, .notOwner, .locked, .busy, .badArg, .incomplete, .notAttached,
     .already, .notSteering, .full, .poolEmpty, .disabled, .notRaiser, .evicted, .badCommand, .frameError,
     .owned].map statusCode =
     [0x00#8, 0x01#8, 0x02#8, 0x03#8, 0x04#8, 0x05#8, 0x06#8, 0x07#8, 0x08#8, 0x09#8, 0x0A#8, 0x0B#8, 0x0C#8, 0x0D#8,
       0x0E#8, 0x0F#8, 0x10#8, 0x11#8, 0x12#8, 0x13#8, 0x14#8, 0x15#8]) ∧
  ∀ (p : Port) (s : State), frameReady p s = true →
    ((s.port p).pstate = .attached → ∃ t, exec (.peek p) s = .next t ∧
      repliedWith (.peek p) p
        (match firstVisible (s.unit p) with
          | none => { status := .empty, data := [0#8, 63#8] ++ zeros 9 }
          | some (.notice n) => { status := .ok, data := noticeRecord n }
          | some (.entry e) =>
            { status := .ok, data := deliveryRecord (entryKindCode e.id.kind) e.id.source 0#8 e.fields }) [] s t) ∧
    (∃ t, exec (.repeatLast p) s = .next t ∧ (t.port p).store = (s.port p).store ∧
      repliedWith (.repeatLast p) p
        (match (s.port p).store with
          | none => { status := .empty, data := zeros 62 }
          | some r =>
            { status := r.status,
              data := [r.code] ++ (r.args ++ zeros (7 - r.args.length)) ++
                (r.data ++ zeros (54 - r.data.length)) }) [] s t)

/-! ## Commands: sessions and the Delivery Unit -/

/-- R126, R128, R129, R130: ATTACH of a DETACHED port begins a session: the tag stored, the counter 0, the revoked list empty,
the attach reported. DETACH hands back in the order of R129's steps and posts PEER to every other port: the entries by priority
and then as admitted (R60), the owed placements in the arbiter's order (R63), each reported by its kind. -/
def Obligations.SessionsBeginAndEnd : Prop :=
  ((∀ entries : List Placement,
     (queueOrder entries).Pairwise (fun a b => a.priority ≤ b.priority) ∧
     ∀ q, (queueOrder entries).filter (·.priority = q) = entries.filter (·.priority = q)) ∧
   (∀ now, owedOrder now 0 [] = []) ∧
   (∀ now owed o, bestOwed now owed = some o →
     owedOrder now owed.length owed = o :: owedOrder now (owed.erase o).length (owed.erase o)) ∧
   (∀ (p : Port) (e : Placement), handbackReports p e =
     match e.id.kind with
     | .offer round => [.candidateLoss e.id.source e.id.ref round p, .withdrawalReport e.id.source p e.id.ref]
     | _ => [.withdrawalReport e.id.source p e.id.ref])) ∧
  ∀ (p : Port) (s : State), frameReady p s = true →
    (∀ tag, (s.port p).pstate = .detached → ∃ t, exec (.attach p tag) s = .next t ∧
      t.port p = replied (.attach p tag) p { status := .ok, data := [] }
        { s.port p with pstate := .attached, tag := tag } ∧
      otherPorts p s t ∧ t.unit p = { s.unit p with seq := 0#8, revoked := [] } ∧ otherUnits p s t ∧
      t.inFlight = s.inFlight ++ [.attachReport p] ∧ attnLaw t ∧
      sameBut [.ports, .units, .messages, .attn] s t) ∧
    ((s.port p).pstate = .attached → ∃ t, exec (.detach p) s = .next t ∧
      t.port p = replied (.detach p) p { status := .ok, data := [] } { s.port p with pstate := .detached } ∧
      otherPorts p s t ∧ otherUnits p s t ∧
      (t.unit p).entries = [] ∧ (t.unit p).owed = [] ∧ (t.unit p).notices = [] ∧ (t.unit p).revoked = [] ∧
      (∀ k, (t.unit p).slot k =
        match (s.unit p).slot k with
        | .reserved id => .reserved id
        | _ => .free) ∧
      (t.unit p).claims = (s.unit p).claims.map (fun c => { c with ended := true }) ∧
      (t.unit p).mask = (s.unit p).mask ∧ (t.unit p).gateOpen = (s.unit p).gateOpen ∧
      (t.unit p).gateOnTake = (s.unit p).gateOnTake ∧ (t.unit p).limit = (s.unit p).limit ∧
      (t.unit p).seq = (s.unit p).seq ∧
      t.inFlight = s.inFlight ++
        ((queueOrder (s.unit p).entries).flatMap (handbackReports p) ++
          (owedOrder s.time (s.unit p).owed.length (s.unit p).owed).flatMap (fun o => handbackReports p o.entry) ++
          ([0, 1, 2, 3] : List ServiceSlotId).flatMap (fun k =>
            match (s.unit p).slot k with
            | .held r => [.revokedReport r.source p r.ref r.kind]
            | _ => []) ++
          (allPorts.filter (· ≠ p)).map (fun q => .noticePosting q .peer (.port p))) ∧
      attnLaw t ∧ sameBut [.ports, .units, .messages, .attn] s t)

/-- R70, R71, R79: TAKE of a notice empties its slot; TAKE of a DIRECT, BROADCAST or FALLBACK entry moves it to the lowest FREE
service slot with the next number, reports it and runs the admission; each closes the gate under gate-on-take. With nothing
visible it is EMPTY, and with no FREE slot SLOTS_FULL, and nothing changes. R72: TAKE of an OFFER entry reserves the lowest
FREE service slot, records the claim with both marks clear, sends the claim and is not answered yet: the frame waits. -/
def Obligations.TakeHandsOver : Prop :=
  (∀ (p : Port) (s : State), frameReady p s = true → (s.port p).pstate = .attached →
     let d := s.unit p
     (∀ n rest, d.notices = n :: rest → ∃ t, exec (.take p) s = .next t ∧
       t.unit p = { d with notices := rest, gateOpen := d.gateOpen && !d.gateOnTake } ∧ otherUnits p s t ∧
       repliedWith (.take p) p { status := .ok, data := noticeRecord n } [.units] s t) ∧
     (firstVisible d = none → ∃ t, exec (.take p) s = .next t ∧
       repliedWith (.take p) p { status := .empty, data := [0#8, 63#8] ++ zeros 9 } [] s t) ∧
     (∀ e, firstVisible d = some (.entry e) → (∀ k, d.slot k ≠ .free) → ∃ t, exec (.take p) s = .next t ∧
       repliedWith (.take p) p { status := .slotsFull, data := [0#8, 63#8] ++ zeros 9 } [] s t) ∧
     (∀ e k form, firstVisible d = some (.entry e) → d.slot k = .free → (∀ j, j < k → d.slot j ≠ .free) →
       (e.id.kind = .direct ∧ form = Form.direct ∨ e.id.kind = .broadcast ∧ form = Form.broadcast ∨
         e.id.kind = .fallback ∧ form = Form.fallback) →
       let n := assignedSeq d
       let d' := { d.setSlot k (.held
           { seq := n, source := e.id.source, kind := form, ref := e.id.ref, taken := s.time,
             deadline := if d.limit = 0#16 then none else some (s.time + BitVec.ofNat 32 (d.limit.toNat * 1000)) }) with
         entries := d.entries.erase e, seq := n, gateOpen := d.gateOpen && !d.gateOnTake }
       ∃ t, exec (.take p) s = .next t ∧
         t.unit p = (admissions s.time p d.owed.length d').1 ∧ otherUnits p s t ∧
         t.inFlight = s.inFlight ++
           ([.takenReport e.id.source p e.id.ref n] ++ (admissions s.time p d.owed.length d').2) ∧
         repliedWith (.take p) p { status := .ok, data := deliveryRecord (formCode form) e.id.source n e.fields }
           [.units, .messages] s t)) ∧
  (∀ (p : Port) (e : Placement) (round : Nat) (k : ServiceSlotId) (s : State),
     frameReady p s = true → (s.port p).pstate = .attached → firstVisible (s.unit p) = some (.entry e) →
     e.id.kind = .offer round → (s.unit p).slot k = .free → (∀ j, j < k → (s.unit p).slot j ≠ .free) →
     let d := s.unit p
     let d' := { d.setSlot k (.reserved e.id) with
       entries := d.entries.erase e
       claims := d.claims ++ [{ entry := e, slot := k, removal := false, ended := false }] }
     ∃ t, exec (.take p) s = .next t ∧
       t.unit p = (admissions s.time p d.owed.length d').1 ∧ otherUnits p s t ∧
       t.inFlight = s.inFlight ++
         ([.claim p e.id.source e.id.ref round] ++ (admissions s.time p d.owed.length d').2) ∧
       t.port p = { s.port p with
         running := some e.id
         frame := some (.answering
           { command := commandBytes (.take p), response := notReadyFill 11, awaiting := true, clocked := 0 }) } ∧
       otherPorts p s t ∧ attnLaw t ∧ sameBut [.units, .messages, .ports, .attn] s t)

/-- R110, R111: DONE of a held number frees its slot, reports done and is OK; of a number in the revoked list it removes the
number, its order kept, and is LATE; of any other it is NOT_HELD and changes nothing. -/
def Obligations.DoneCompletesDelivery : Prop :=
  ∀ (p : Port) (seq : Byte) (s : State), frameReady p s = true → (s.port p).pstate = .attached →
    (∀ k r, (s.unit p).slot k = .held r → r.seq = seq →
      (∀ j r', (s.unit p).slot j = .held r' → r'.seq = seq → j = k) → ∃ t, exec (.doneSeq p seq) s = .next t ∧
        t.unit p = (s.unit p).setSlot k .free ∧ otherUnits p s t ∧
        t.inFlight = s.inFlight ++ [.doneReport r.source p r.ref] ∧
        repliedWith (.doneSeq p seq) p { status := .ok, data := [] } [.units, .messages] s t) ∧
    ((∀ k r, (s.unit p).slot k = .held r → r.seq ≠ seq) →
      (∀ older newer, (s.unit p).revoked = older ++ seq :: newer → seq ∉ older →
        ∃ t, exec (.doneSeq p seq) s = .next t ∧
          t.unit p = { s.unit p with revoked := older ++ newer } ∧ otherUnits p s t ∧
          repliedWith (.doneSeq p seq) p { status := .late, data := [] } [.units] s t) ∧
      (seq ∉ (s.unit p).revoked → refusedWith (.doneSeq p seq) p .notHeld s))

/-- R61, R78, R79, R108: HOLD, RESUME, SET_MASK, SET_GATE and SET_LIMIT each set their one item of the Delivery Unit; SET_GATE
refuses a mode above 1 and SET_LIMIT a limit above 4095. -/
def Obligations.UnitSettings : Prop :=
  ∀ (p : Port) (s : State), frameReady p s = true → (s.port p).pstate = .attached →
    let sets := fun (c : Instr) (d : DeliveryUnit) => ∃ t, exec c s = .next t ∧ t.unit p = d ∧ otherUnits p s t ∧
      repliedWith c p { status := .ok, data := [] } [.units] s t
    sets (.hold p) { s.unit p with gateOpen := false } ∧
    sets (.resume p) { s.unit p with gateOpen := true } ∧
    (∀ mask, sets (.setMask p mask) { s.unit p with mask := mask }) ∧
    sets (.setGate p 0#8) { s.unit p with gateOnTake := false } ∧
    sets (.setGate p 1#8) { s.unit p with gateOnTake := true } ∧
    (∀ mode : Byte, 2 ≤ mode.toNat → refusedWith (.setGate p mode) p .badArg s) ∧
    (∀ ms : Word, ms.toNat ≤ 4095 → sets (.setLimit p ms) { s.unit p with limit := ms }) ∧
    (∀ ms : Word, 4096 ≤ ms.toNat → refusedWith (.setLimit p ms) p .badArg s)

/-! ## Commands: sources -/

/-- R45, R46, R9: a RAISE that passes its six checks appends the word with raiser and stamp and takes a cell; in IDLE or WAITING
the source is WAITING and an attempt is made (R48, R10), which fails while STOPPED or with a slot request standing, and forms its
batch by the source's mode while RUNNING; the premise of no batch is R7's of IDLE and WAITING. The first failing check decides
the status, in the order BAD_ARG, NOT_RAISER, DISABLED, FULL, POOL_EMPTY, and a refused RAISE changes nothing. That R45's
NOT_RAISER comes before DISABLED for an OFF source too, of which R141 says DISABLED alone, is log 23 (DEDUCED). -/
def Obligations.RaiseCommand : Prop :=
  (∀ (p : Port) (i : SourceId) (word : Word) (depth : Nat) (raisers : PortSet) (s : State),
     let c := Instr.raiseWord p (BitVec.ofNat 8 i.val) word
     let r := s.src i
     frameReady p s = true → (s.port p).pstate = .attached → r.routing.kind = .soft depth raisers →
     portIn p raisers = true → (r.state = .idle ∨ r.state = .waiting ∨ r.state = .active) → r.words.length < depth →
     s.poolFree ≠ 0 →
     (∃ t, exec c s = .next t ∧ (t.src i).words = r.words ++ [{ word := word, raiser := p, stamp := s.time }] ∧
       t.poolFree = s.poolFree - 1 ∧ otherSources i s t ∧
       repliedWith c p { status := .ok, data := [] } [.sources, .pool, .messages] s t) ∧
     (r.state = .active ∨ s.runState = .stopped ∨ r.slotRequest ≠ none → ∃ t, exec c s = .next t ∧
       t.src i = { r with
         words := r.words ++ [{ word := word, raiser := p, stamp := s.time }]
         state := if r.state = .active then .active else .waiting } ∧
       repliedWith c p { status := .ok, data := [] } [.sources, .pool] s t) ∧
     (r.state ≠ .active → s.runState = .running → r.slotRequest = none → r.batch = none →
       ∃ t sent, exec c s = .next t ∧
         attemptResult (seen s) i
           { r with words := r.words ++ [{ word := word, raiser := p, stamp := s.time }], state := .waiting }
           (t.src i) sent ∧
         t.inFlight = s.inFlight ++ sent ∧ otherSources i s t ∧ t.poolFree = s.poolFree - 1 ∧
         repliedWith c p { status := .ok, data := [] } [.sources, .pool, .messages] s t)) ∧
  (∀ (p : Port) (b : Byte) (word : Word) (s : State), frameReady p s = true → (s.port p).pstate = .attached →
     (∀ i, kindLaw i (s.src i)) →
     (b.toNat < 32 ∨ 48 ≤ b.toNat → refusedWith (.raiseWord p b word) p .badArg s) ∧
     (∀ i depth raisers, sourceOf b = some i → (s.src i).routing.kind = .soft depth raisers →
       (portIn p raisers = false → refusedWith (.raiseWord p b word) p .notRaiser s) ∧
       (portIn p raisers = true →
         ((s.src i).state = .off ∨ (s.src i).state = .draining → refusedWith (.raiseWord p b word) p .disabled s) ∧
         ((s.src i).state ≠ .off → (s.src i).state ≠ .draining →
           (depth ≤ (s.src i).words.length → refusedWith (.raiseWord p b word) p .full s) ∧
           ((s.src i).words.length < depth → s.poolFree = 0 → refusedWith (.raiseWord p b word) p .poolEmpty s)))))

/-- R140, R151: a command that names a source is refused BAD_ARG for an id above 47, then LOCKED, then NOT_OWNER (OWNED for
ADOPT). R145, R147, R150: ADOPT of an unowned source makes the issuer its owner; RELEASE by the owner leaves it unowned; LOCK
by the owner sets the lock. Each changes that one field and is OK. -/
def Obligations.SourceCommandChecks : Prop :=
  (∀ (p : Port) (b : Byte) (block : RouteBlock) (s : State), frameReady p s = true → (s.port p).pstate = .attached →
     (48 ≤ b.toNat →
       ∀ c ∈ [Instr.writeRoute p b block, .enable p b, .disable p b, .adopt p b, .release p b, .lock p b],
         refusedWith c p .badArg s) ∧
     (∀ i, sourceOf b = some i →
       ((s.src i).lock = true →
         ∀ c ∈ [Instr.writeRoute p b block, .enable p b, .disable p b, .adopt p b, .release p b, .lock p b],
           refusedWith c p .locked s) ∧
       ((s.src i).lock = false → (s.src i).owner ≠ some p →
         (∀ c ∈ [Instr.writeRoute p b block, .enable p b, .disable p b, .release p b, .lock p b],
           refusedWith c p .notOwner s) ∧
         ((s.src i).owner ≠ none → refusedWith (.adopt p b) p .owned s)))) ∧
  (∀ (p : Port) (b : Byte) (i : SourceId) (s : State),
     frameReady p s = true → (s.port p).pstate = .attached → sourceOf b = some i → (s.src i).lock = false →
     let does := fun (c : Instr) (r : Source) => ∃ t, exec c s = .next t ∧ t.src i = r ∧ otherSources i s t ∧
       repliedWith c p { status := .ok, data := [] } [.sources] s t
     ((s.src i).owner = none ∨ (s.src i).owner = some p → does (.adopt p b) { s.src i with owner := some p }) ∧
     ((s.src i).owner = some p →
       does (.release p b) { s.src i with owner := none } ∧ does (.lock p b) { s.src i with lock := true }))

/-- R141, R142: a WRITE_ROUTE of an OFF source by its owner with a valid block completes: it replaces the routing fields by the
block's values, in the fields of the source's kind, and nothing else, so that READ_SOURCE reads the block back. It refuses every
block that is not valid, and any block while the source is not OFF. -/
def Obligations.RoutingWritten : Prop :=
  ∀ (p : Port) (b : Byte) (i : SourceId) (block : RouteBlock) (s : State),
    let c := Instr.writeRoute p b block
    frameReady p s = true → (s.port p).pstate = .attached → sourceOf b = some i → (s.src i).lock = false →
    (s.src i).owner = some p →
    ((s.src i).state ≠ .off → refusedWith c p .busy s) ∧
    ((s.src i).state = .off →
      (validBlock i block → ∃ t routing, exec c s = .next t ∧
        t.src i = { s.src i with routing := routing } ∧ kindLaw i (t.src i) ∧
        [modeCode routing.mode, routing.targets.zeroExtend 8, portByte routing.fallback,
          BitVec.ofNat 8 routing.priority.val,
          (match routing.kind with | .line g _ => triggerCode g | .soft d _ => BitVec.ofNat 8 d),
          (match routing.kind with | .line _ k => BitVec.ofNat 8 k.val | .soft _ q => q.zeroExtend 8)] =
          [block.mode, block.targets, block.fallback, block.priority, block.kindA, block.kindB] ∧
        otherSources i s t ∧ repliedWith c p { status := .ok, data := [] } [.sources] s t) ∧
      (¬ validBlock i block → refusedWith c p .badArg s))

/-- R25, R26, R52: ENABLE by the owner makes an OFF source with targets IDLE and tells the Line Qualifier of a line source, is
INCOMPLETE without targets, BUSY while DRAINING and otherwise OK with no change. DISABLE discards the pending occurrences, or the
words no batch holds, and ends the work no master has taken: with no batch or nothing in service the source is OFF, its batch
DISCARDED and its list freed; with a copy in service it is DRAINING with its IN_SERVICE and DONE copies and the batch's word. In
OFF and DRAINING DISABLE is OK with no change. -/
def Obligations.EnableAndDisable : Prop :=
  ∀ (p : Port) (b : Byte) (i : SourceId) (s : State),
    let r := s.src i
    let off := { r with
      pending := 0, overrun := false, firstStamp := none, slotRequest := none, enable := false, state := .off }
    frameReady p s = true → (s.port p).pstate = .attached → sourceOf b = some i → r.lock = false → r.owner = some p →
    (r.state = .off → r.routing.targets ≠ 0#4 → ∃ t, exec (.enable p b) s = .next t ∧
      t.src i = { r with state := .idle, enable := true } ∧ otherSources i s t ∧
      t.inFlight = s.inFlight ++ toldLine i .enableReport ∧
      repliedWith (.enable p b) p { status := .ok, data := [] } [.sources, .messages] s t) ∧
    (r.state = .off → r.routing.targets = 0#4 → refusedWith (.enable p b) p .incomplete s) ∧
    (r.state = .draining → refusedWith (.enable p b) p .busy s) ∧
    (r.state = .idle ∨ r.state = .waiting ∨ r.state = .active → ∃ t, exec (.enable p b) s = .next t ∧
      repliedWith (.enable p b) p { status := .ok, data := [] } [] s t) ∧
    (r.state = .off ∨ r.state = .draining → ∃ t, exec (.disable p b) s = .next t ∧
      repliedWith (.disable p b) p { status := .ok, data := [] } [] s t) ∧
    (r.state = .idle ∨ r.state = .waiting ∨ r.state = .active →
      ((∀ x, r.batch = some x → ∀ q, x.copy q ≠ .inService) → ∃ t, exec (.disable p b) s = .next t ∧
        t.src i = { off with
          words := [], batch := none, lastOutcome := if r.batch = none then r.lastOutcome else .discarded } ∧
        t.poolFree = s.poolFree + r.words.length ∧ otherSources i s t ∧
        t.inFlight = s.inFlight ++ (workEnded i r ++ toldLine i .disableReport) ∧
        repliedWith (.disable p b) p { status := .ok, data := [] } [.sources, .pool, .messages] s t) ∧
      (∀ x, r.batch = some x → (∃ q, x.copy q = .inService) → ∃ t x', exec (.disable p b) s = .next t ∧
        t.src i = { off with state := .draining, words := r.words.take 1, batch := some x' } ∧
        x' = { x with copies := x'.copies, offer := none } ∧
        (∀ q, x'.copy q = if x.copy q = .inService ∨ x.copy q = .done then x.copy q else .noCopy) ∧
        t.poolFree = s.poolFree + (r.words.length - 1) ∧ otherSources i s t ∧
        t.inFlight = s.inFlight ++ (workEnded i r ++ toldLine i .disableReport) ∧
        repliedWith (.disable p b) p { status := .ok, data := [] } [.sources, .pool, .messages] s t))

/-! ## Commands: steering -/

/-- R157 to R159, R163: the steering commands are refused NOT_STEERING from any port but the steering port; RUN and STOP set the
run state, RUN reporting to the Source Table; SET_WINDOW sets a window of 1 to 255 ms and refuses 0. -/
def Obligations.RunControl : Prop :=
  ∀ (p : Port) (s : State), frameReady p s = true → (s.port p).pstate = .attached →
    (s.steering ≠ some p → ∀ x y : Byte,
      ∀ c ∈ [Instr.run p, .stop p, .evict p x, .seize p x y, .tableReset p, .setWindow p x],
        refusedWith c p .notSteering s) ∧
    (s.steering = some p →
      (∃ t, exec (.run p) s = .next t ∧ t.runState = .running ∧ t.steering = s.steering ∧ t.window = s.window ∧
        t.cause = s.cause ∧ t.inFlight = s.inFlight ++ [.runReport] ∧
        repliedWith (.run p) p { status := .ok, data := [] } [.control, .messages] s t) ∧
      (∃ t, exec (.stop p) s = .next t ∧ t.runState = .stopped ∧ t.steering = s.steering ∧ t.window = s.window ∧
        t.cause = s.cause ∧ repliedWith (.stop p) p { status := .ok, data := [] } [.control] s t) ∧
      (∀ ms : Byte, ms ≠ 0#8 → ∃ t, exec (.setWindow p ms) s = .next t ∧ t.window = ms ∧ t.steering = s.steering ∧
        t.runState = s.runState ∧ t.cause = s.cause ∧
        repliedWith (.setWindow p ms) p { status := .ok, data := [] } [.control] s t) ∧
      refusedWith (.setWindow p 0#8) p .badArg s)

/-- R133, R161: EVICT of an ATTACHED port makes it EVICTED and hands its work back, its tag and store kept; of a DETACHED port it
changes the state alone, also while that port's PnRST is asserted (log 20, DESIGN CHOICE); of an EVICTED port nothing. It refuses
the steering port itself and a byte above 3. -/
def Obligations.EvictTakesPortAway : Prop :=
  ∀ (p v : Port) (s : State),
    let c := Instr.evict p (BitVec.ofNat 8 v.val)
    frameReady p s = true → (s.port p).pstate = .attached → s.steering = some p → v ≠ p →
    ((s.port v).pstate = .attached → ∃ t, exec c s = .next t ∧
      t.port v = { s.port v with pstate := .evicted } ∧ t.port p = replied c p { status := .ok, data := [] } (s.port p) ∧
      (∀ q, q ≠ p → q ≠ v → t.port q = s.port q) ∧ t.unit v = unitAfterHandback (s.unit v) ∧ otherUnits v s t ∧
      t.inFlight = s.inFlight ++ handbackMessages s.time v (s.unit v) ∧ attnLaw t ∧
      sameBut [.ports, .units, .messages, .attn] s t) ∧
    ((s.port v).pstate ≠ .attached → ∃ t, exec c s = .next t ∧
      t.port v = { s.port v with pstate := .evicted } ∧ t.port p = replied c p { status := .ok, data := [] } (s.port p) ∧
      (∀ q, q ≠ p → q ≠ v → t.port q = s.port q) ∧ attnLaw t ∧ sameBut [.ports, .attn] s t) ∧
    refusedWith (.evict p (BitVec.ofNat 8 p.val)) p .badArg s ∧
    (∀ x : Byte, 4 ≤ x.toNat → refusedWith (.evict p x) p .badArg s)

/-- R148, R162: SEIZE sets the owner to the named port or none and posts SEIZED to a former owner that was another port; naming
the present owner changes nothing; a locked source is LOCKED, and a source id above 47 or a port byte of no meaning BAD_ARG. -/
def Obligations.SeizeSetsOwner : Prop :=
  (∀ (p : Port) (b x : Byte) (s : State), frameReady p s = true → (s.port p).pstate = .attached →
     s.steering = some p → 48 ≤ b.toNat → refusedWith (.seize p b x) p .badArg s) ∧
  (∀ (p : Port) (b x : Byte) (i : SourceId) (s : State),
    let c := Instr.seize p b x
    frameReady p s = true → (s.port p).pstate = .attached → s.steering = some p → sourceOf b = some i →
    ((s.src i).lock = true → refusedWith c p .locked s) ∧
    ((s.src i).lock = false →
      (seizePortOf x = none → refusedWith c p .badArg s) ∧
      (∀ o, seizePortOf x = some o → (s.src i).owner ≠ o → ∃ t, exec c s = .next t ∧
        t.src i = { s.src i with owner := o } ∧ otherSources i s t ∧
        t.inFlight = s.inFlight ++
          (match (s.src i).owner with | some f => [.noticePosting f .seized (.source i)] | none => []) ∧
        repliedWith c p { status := .ok, data := [] } [.sources, .messages] s t) ∧
      (∀ o, seizePortOf x = some o → (s.src i).owner = o → ∃ t, exec c s = .next t ∧
        repliedWith c p { status := .ok, data := [] } [] s t))) ∧
  seizePortOf 0xFF#8 = some none ∧ (∀ q : Port, seizePortOf (BitVec.ofNat 8 q.val) = some (some q)) ∧
  (∀ y : Byte, 4 ≤ y.toNat → y ≠ 0xFF#8 → seizePortOf y = none)

/-- R164, R165: TABLE_RESET gives every unlocked record its power-up values, frees its words, and leaves every locked one as it
was; of each unlocked source it sends what ends its work, then a removal request for each copy in service, then the disable report
of one that was enabled, and nothing else; it posts TABLE to every port. The ascending order of the sources is log 11's. -/
def Obligations.TableResetClears : Prop :=
  ∀ (p : Port) (s : State), frameReady p s = true → (s.port p).pstate = .attached → s.steering = some p →
    ∃ t, exec (.tableReset p) s = .next t ∧
      (∀ i, (s.src i).lock = true → t.src i = s.src i) ∧
      (∀ i, (s.src i).lock = false → t.src i =
        freshSource (powerUpRouting i) (s.src i).nextRef (s.src i).nextRequest) ∧
      t.poolFree = s.poolFree +
        ((List.finRange 48).map fun i => if (s.src i).lock then 0 else (s.src i).words.length).sum ∧
      t.inFlight = s.inFlight ++
        ((List.finRange 48).flatMap (fun i => if (s.src i).lock then [] else resetSends i (s.src i)) ++
          allPorts.map fun q => .noticePosting q .table .none) ∧
      repliedWith (.tableReset p) p { status := .ok, data := [] } [.sources, .pool, .messages] s t

/-! ## The Time Base -/

/-- R170: the counter rises by one modulo 2^32. By the model's choice of log 5 the settle timings, offers and service deadlines
that the new value reaches fall due, in that order, the lower line, slot or port first (log 11), and nothing else is sent. -/
def Obligations.TimeBaseTicks : Prop :=
  ∀ s : State, s.crst = false → ∃ t, exec .timeBaseTick s = .next t ∧ t.time = s.time + 1#32 ∧
    t.time.toNat = (s.time.toNat + 1) % 2 ^ 32 ∧
    (∃ (settles : List LineId) (offers : List SlotId) (services : List (Port × ServiceSlotId)),
      t.inFlight = s.inFlight ++
        (settles.map .settleExpiry ++ offers.map .offerExpiry ++
          services.map fun x => .serviceDeadlineExpiry x.1 x.2) ∧
      settles.Pairwise (· < ·) ∧ (∀ l, l ∈ settles ↔ (s.line l).timer = some t.time) ∧
      offers.Pairwise (· < ·) ∧ (∀ k, k ∈ offers ↔ ∃ o, s.offer k = .opened o ∧ o.deadline = t.time) ∧
      services.Pairwise (fun x y => x.1 < y.1 ∨ x.1 = y.1 ∧ x.2 < y.2) ∧
      (∀ p k, (p, k) ∈ services ↔ ∃ r, (s.unit p).slot k = .held r ∧ r.deadline = some t.time)) ∧
    sameBut [.time, .messages] s t

/-! ## The laws of the device -/

/-- The reset state keeps every law of the device, and POWER_UP with its pins leaves it as it is. -/
def Obligations.ResetKeepsLaws : Prop :=
  deviceLaws State.reset ∧ exec (.powerUp 0#3 0#32 false 0#4) State.reset = .next State.reset

/-- R80: every step keeps the law of ATTN. -/
def Obligations.AttnLawKept : Prop :=
  ∀ s t : State, attnLaw s → step s = .next t → attnLaw t

/-- R59: every step keeps the law of the Delivery Queues. R106, R112: every step keeps the law of the sequence numbers. R132:
every step keeps the law of the ports that are not ATTACHED. R82: every step keeps the law of the OPEN slots. -/
def Obligations.UnitLawsKept : Prop :=
  (∀ s t : State, queuesLaw s → step s = .next t → queuesLaw t) ∧
  (∀ s t : State, sequencesLaw s → step s = .next t → sequencesLaw t) ∧
  (∀ s t : State, absentLaw s → step s = .next t → absentLaw t) ∧
  (∀ s t : State, offersLaw s → step s = .next t → offersLaw t)

/-- R7, R43: every step keeps the conditions of every source's state and the law of the Payload Pool. R139: every step keeps the
law that a locked source has an owner. -/
def Obligations.SourceAndPoolLawsKept : Prop :=
  (∀ s t : State, sourcesLaw s → poolLaw s → step s = .next t → sourcesLaw t ∧ poolLaw t) ∧
  (∀ s t : State, lockedOwned s → step s = .next t → lockedOwned t)

/-- R151, R139: no command but POWER_UP changes the routing fields, the owner, the lock or the enable field of a locked source.
R143: the routing fields of a source change only while it is OFF, or by power-up, or, for an unlocked source, by chip reset or
TABLE_RESET, which leave it OFF. -/
def Obligations.RoutingFieldsKept : Prop :=
  (∀ (c : Instr) (i : SourceId) (s t : State), (s.src i).lock = true → exec c s = .next t →
     (∀ ssel lin crst prst, c ≠ .powerUp ssel lin crst prst) →
     (t.src i).routing = (s.src i).routing ∧ (t.src i).owner = (s.src i).owner ∧ (t.src i).lock = true ∧
     (t.src i).enable = (s.src i).enable) ∧
  (∀ (c : Instr) (i : SourceId) (s t : State), exec c s = .next t → (t.src i).routing ≠ (s.src i).routing →
     (s.src i).state = .off ∨ (∃ ssel lin crst prst, c = .powerUp ssel lin crst prst) ∨
     (s.src i).lock = false ∧ (t.src i).state = .off ∧ ((∃ ssel, c = .crstRelease ssel) ∨ ∃ p, c = .tableReset p))

end
end

