-- ==== Sys2Proof/Laws/State.lean ====
section
/-! SUPPORT. What each update of the state does to each field, and what reading after an update gives. -/

namespace Sys2Proof.Machine

variable (s : State)

/-! ### setSrc -/

@[simp] theorem State.setSrc_pins (i : SourceId) (r : Source) : (s.setSrc i r).pins = s.pins := rfl
@[simp] theorem State.setSrc_crst (i : SourceId) (r : Source) : (s.setSrc i r).crst = s.crst := rfl
@[simp] theorem State.setSrc_powerHold (i : SourceId) (r : Source) : (s.setSrc i r).powerHold = s.powerHold := rfl
@[simp] theorem State.setSrc_time (i : SourceId) (r : Source) : (s.setSrc i r).time = s.time := rfl
@[simp] theorem State.setSrc_steering (i : SourceId) (r : Source) : (s.setSrc i r).steering = s.steering := rfl
@[simp] theorem State.setSrc_runState (i : SourceId) (r : Source) : (s.setSrc i r).runState = s.runState := rfl
@[simp] theorem State.setSrc_window (i : SourceId) (r : Source) : (s.setSrc i r).window = s.window := rfl
@[simp] theorem State.setSrc_cause (i : SourceId) (r : Source) : (s.setSrc i r).cause = s.cause := rfl
@[simp] theorem State.setSrc_lines (i : SourceId) (r : Source) : (s.setSrc i r).lines = s.lines := rfl
@[simp] theorem State.setSrc_poolFree (i : SourceId) (r : Source) : (s.setSrc i r).poolFree = s.poolFree := rfl
@[simp] theorem State.setSrc_offers (i : SourceId) (r : Source) : (s.setSrc i r).offers = s.offers := rfl
@[simp] theorem State.setSrc_requests (i : SourceId) (r : Source) : (s.setSrc i r).requests = s.requests := rfl
@[simp] theorem State.setSrc_units (i : SourceId) (r : Source) : (s.setSrc i r).units = s.units := rfl
@[simp] theorem State.setSrc_ports (i : SourceId) (r : Source) : (s.setSrc i r).ports = s.ports := rfl
@[simp] theorem State.setSrc_attn (i : SourceId) (r : Source) : (s.setSrc i r).attn = s.attn := rfl
@[simp] theorem State.setSrc_inFlight (i : SourceId) (r : Source) : (s.setSrc i r).inFlight = s.inFlight := rfl
@[simp] theorem State.setSrc_handed (i : SourceId) (r : Source) : (s.setSrc i r).handed = s.handed := rfl
@[simp] theorem State.setSrc_released (i : SourceId) (r : Source) : (s.setSrc i r).released = s.released := rfl
@[simp] theorem State.setSrc_link (i : SourceId) (r : Source) : (s.setSrc i r).link = s.link := rfl
@[simp] theorem State.setSrc_pending (i : SourceId) (r : Source) : (s.setSrc i r).pending = s.pending := rfl
@[simp] theorem State.setSrc_line (i : SourceId) (r : Source) (x' : LineId) : (s.setSrc i r).line x' = s.line x' := rfl
@[simp] theorem State.setSrc_offer (i : SourceId) (r : Source) (x' : SlotId) : (s.setSrc i r).offer x' = s.offer x' := rfl
@[simp] theorem State.setSrc_unit (i : SourceId) (r : Source) (x' : Port) : (s.setSrc i r).unit x' = s.unit x' := rfl
@[simp] theorem State.setSrc_port (i : SourceId) (r : Source) (x' : Port) : (s.setSrc i r).port x' = s.port x' := rfl

/-! ### setLine -/

@[simp] theorem State.setLine_pins (l : LineId) (x : Line) : (s.setLine l x).pins = s.pins := rfl
@[simp] theorem State.setLine_crst (l : LineId) (x : Line) : (s.setLine l x).crst = s.crst := rfl
@[simp] theorem State.setLine_powerHold (l : LineId) (x : Line) : (s.setLine l x).powerHold = s.powerHold := rfl
@[simp] theorem State.setLine_time (l : LineId) (x : Line) : (s.setLine l x).time = s.time := rfl
@[simp] theorem State.setLine_steering (l : LineId) (x : Line) : (s.setLine l x).steering = s.steering := rfl
@[simp] theorem State.setLine_runState (l : LineId) (x : Line) : (s.setLine l x).runState = s.runState := rfl
@[simp] theorem State.setLine_window (l : LineId) (x : Line) : (s.setLine l x).window = s.window := rfl
@[simp] theorem State.setLine_cause (l : LineId) (x : Line) : (s.setLine l x).cause = s.cause := rfl
@[simp] theorem State.setLine_sources (l : LineId) (x : Line) : (s.setLine l x).sources = s.sources := rfl
@[simp] theorem State.setLine_poolFree (l : LineId) (x : Line) : (s.setLine l x).poolFree = s.poolFree := rfl
@[simp] theorem State.setLine_offers (l : LineId) (x : Line) : (s.setLine l x).offers = s.offers := rfl
@[simp] theorem State.setLine_requests (l : LineId) (x : Line) : (s.setLine l x).requests = s.requests := rfl
@[simp] theorem State.setLine_units (l : LineId) (x : Line) : (s.setLine l x).units = s.units := rfl
@[simp] theorem State.setLine_ports (l : LineId) (x : Line) : (s.setLine l x).ports = s.ports := rfl
@[simp] theorem State.setLine_attn (l : LineId) (x : Line) : (s.setLine l x).attn = s.attn := rfl
@[simp] theorem State.setLine_inFlight (l : LineId) (x : Line) : (s.setLine l x).inFlight = s.inFlight := rfl
@[simp] theorem State.setLine_handed (l : LineId) (x : Line) : (s.setLine l x).handed = s.handed := rfl
@[simp] theorem State.setLine_released (l : LineId) (x : Line) : (s.setLine l x).released = s.released := rfl
@[simp] theorem State.setLine_link (l : LineId) (x : Line) : (s.setLine l x).link = s.link := rfl
@[simp] theorem State.setLine_pending (l : LineId) (x : Line) : (s.setLine l x).pending = s.pending := rfl
@[simp] theorem State.setLine_src (l : LineId) (x : Line) (x' : SourceId) : (s.setLine l x).src x' = s.src x' := rfl
@[simp] theorem State.setLine_offer (l : LineId) (x : Line) (x' : SlotId) : (s.setLine l x).offer x' = s.offer x' := rfl
@[simp] theorem State.setLine_unit (l : LineId) (x : Line) (x' : Port) : (s.setLine l x).unit x' = s.unit x' := rfl
@[simp] theorem State.setLine_port (l : LineId) (x : Line) (x' : Port) : (s.setLine l x).port x' = s.port x' := rfl

/-! ### setOffer -/

@[simp] theorem State.setOffer_pins (k : SlotId) (x : OfferSlot) : (s.setOffer k x).pins = s.pins := rfl
@[simp] theorem State.setOffer_crst (k : SlotId) (x : OfferSlot) : (s.setOffer k x).crst = s.crst := rfl
@[simp] theorem State.setOffer_powerHold (k : SlotId) (x : OfferSlot) : (s.setOffer k x).powerHold = s.powerHold := rfl
@[simp] theorem State.setOffer_time (k : SlotId) (x : OfferSlot) : (s.setOffer k x).time = s.time := rfl
@[simp] theorem State.setOffer_steering (k : SlotId) (x : OfferSlot) : (s.setOffer k x).steering = s.steering := rfl
@[simp] theorem State.setOffer_runState (k : SlotId) (x : OfferSlot) : (s.setOffer k x).runState = s.runState := rfl
@[simp] theorem State.setOffer_window (k : SlotId) (x : OfferSlot) : (s.setOffer k x).window = s.window := rfl
@[simp] theorem State.setOffer_cause (k : SlotId) (x : OfferSlot) : (s.setOffer k x).cause = s.cause := rfl
@[simp] theorem State.setOffer_lines (k : SlotId) (x : OfferSlot) : (s.setOffer k x).lines = s.lines := rfl
@[simp] theorem State.setOffer_sources (k : SlotId) (x : OfferSlot) : (s.setOffer k x).sources = s.sources := rfl
@[simp] theorem State.setOffer_poolFree (k : SlotId) (x : OfferSlot) : (s.setOffer k x).poolFree = s.poolFree := rfl
@[simp] theorem State.setOffer_requests (k : SlotId) (x : OfferSlot) : (s.setOffer k x).requests = s.requests := rfl
@[simp] theorem State.setOffer_units (k : SlotId) (x : OfferSlot) : (s.setOffer k x).units = s.units := rfl
@[simp] theorem State.setOffer_ports (k : SlotId) (x : OfferSlot) : (s.setOffer k x).ports = s.ports := rfl
@[simp] theorem State.setOffer_attn (k : SlotId) (x : OfferSlot) : (s.setOffer k x).attn = s.attn := rfl
@[simp] theorem State.setOffer_inFlight (k : SlotId) (x : OfferSlot) : (s.setOffer k x).inFlight = s.inFlight := rfl
@[simp] theorem State.setOffer_handed (k : SlotId) (x : OfferSlot) : (s.setOffer k x).handed = s.handed := rfl
@[simp] theorem State.setOffer_released (k : SlotId) (x : OfferSlot) : (s.setOffer k x).released = s.released := rfl
@[simp] theorem State.setOffer_link (k : SlotId) (x : OfferSlot) : (s.setOffer k x).link = s.link := rfl
@[simp] theorem State.setOffer_pending (k : SlotId) (x : OfferSlot) : (s.setOffer k x).pending = s.pending := rfl
@[simp] theorem State.setOffer_src (k : SlotId) (x : OfferSlot) (x' : SourceId) : (s.setOffer k x).src x' = s.src x' := rfl
@[simp] theorem State.setOffer_line (k : SlotId) (x : OfferSlot) (x' : LineId) : (s.setOffer k x).line x' = s.line x' := rfl
@[simp] theorem State.setOffer_unit (k : SlotId) (x : OfferSlot) (x' : Port) : (s.setOffer k x).unit x' = s.unit x' := rfl
@[simp] theorem State.setOffer_port (k : SlotId) (x : OfferSlot) (x' : Port) : (s.setOffer k x).port x' = s.port x' := rfl

/-! ### setUnit -/

@[simp] theorem State.setUnit_pins (p : Port) (d : DeliveryUnit) : (s.setUnit p d).pins = s.pins := rfl
@[simp] theorem State.setUnit_crst (p : Port) (d : DeliveryUnit) : (s.setUnit p d).crst = s.crst := rfl
@[simp] theorem State.setUnit_powerHold (p : Port) (d : DeliveryUnit) : (s.setUnit p d).powerHold = s.powerHold := rfl
@[simp] theorem State.setUnit_time (p : Port) (d : DeliveryUnit) : (s.setUnit p d).time = s.time := rfl
@[simp] theorem State.setUnit_steering (p : Port) (d : DeliveryUnit) : (s.setUnit p d).steering = s.steering := rfl
@[simp] theorem State.setUnit_runState (p : Port) (d : DeliveryUnit) : (s.setUnit p d).runState = s.runState := rfl
@[simp] theorem State.setUnit_window (p : Port) (d : DeliveryUnit) : (s.setUnit p d).window = s.window := rfl
@[simp] theorem State.setUnit_cause (p : Port) (d : DeliveryUnit) : (s.setUnit p d).cause = s.cause := rfl
@[simp] theorem State.setUnit_lines (p : Port) (d : DeliveryUnit) : (s.setUnit p d).lines = s.lines := rfl
@[simp] theorem State.setUnit_sources (p : Port) (d : DeliveryUnit) : (s.setUnit p d).sources = s.sources := rfl
@[simp] theorem State.setUnit_poolFree (p : Port) (d : DeliveryUnit) : (s.setUnit p d).poolFree = s.poolFree := rfl
@[simp] theorem State.setUnit_offers (p : Port) (d : DeliveryUnit) : (s.setUnit p d).offers = s.offers := rfl
@[simp] theorem State.setUnit_requests (p : Port) (d : DeliveryUnit) : (s.setUnit p d).requests = s.requests := rfl
@[simp] theorem State.setUnit_ports (p : Port) (d : DeliveryUnit) : (s.setUnit p d).ports = s.ports := rfl
@[simp] theorem State.setUnit_attn (p : Port) (d : DeliveryUnit) : (s.setUnit p d).attn = s.attn := rfl
@[simp] theorem State.setUnit_inFlight (p : Port) (d : DeliveryUnit) : (s.setUnit p d).inFlight = s.inFlight := rfl
@[simp] theorem State.setUnit_handed (p : Port) (d : DeliveryUnit) : (s.setUnit p d).handed = s.handed := rfl
@[simp] theorem State.setUnit_released (p : Port) (d : DeliveryUnit) : (s.setUnit p d).released = s.released := rfl
@[simp] theorem State.setUnit_link (p : Port) (d : DeliveryUnit) : (s.setUnit p d).link = s.link := rfl
@[simp] theorem State.setUnit_pending (p : Port) (d : DeliveryUnit) : (s.setUnit p d).pending = s.pending := rfl
@[simp] theorem State.setUnit_src (p : Port) (d : DeliveryUnit) (x' : SourceId) : (s.setUnit p d).src x' = s.src x' := rfl
@[simp] theorem State.setUnit_line (p : Port) (d : DeliveryUnit) (x' : LineId) : (s.setUnit p d).line x' = s.line x' := rfl
@[simp] theorem State.setUnit_offer (p : Port) (d : DeliveryUnit) (x' : SlotId) : (s.setUnit p d).offer x' = s.offer x' := rfl
@[simp] theorem State.setUnit_port (p : Port) (d : DeliveryUnit) (x' : Port) : (s.setUnit p d).port x' = s.port x' := rfl

/-! ### setPort -/

@[simp] theorem State.setPort_pins (p : Port) (q : PortRecord) : (s.setPort p q).pins = s.pins := rfl
@[simp] theorem State.setPort_crst (p : Port) (q : PortRecord) : (s.setPort p q).crst = s.crst := rfl
@[simp] theorem State.setPort_powerHold (p : Port) (q : PortRecord) : (s.setPort p q).powerHold = s.powerHold := rfl
@[simp] theorem State.setPort_time (p : Port) (q : PortRecord) : (s.setPort p q).time = s.time := rfl
@[simp] theorem State.setPort_steering (p : Port) (q : PortRecord) : (s.setPort p q).steering = s.steering := rfl
@[simp] theorem State.setPort_runState (p : Port) (q : PortRecord) : (s.setPort p q).runState = s.runState := rfl
@[simp] theorem State.setPort_window (p : Port) (q : PortRecord) : (s.setPort p q).window = s.window := rfl
@[simp] theorem State.setPort_cause (p : Port) (q : PortRecord) : (s.setPort p q).cause = s.cause := rfl
@[simp] theorem State.setPort_lines (p : Port) (q : PortRecord) : (s.setPort p q).lines = s.lines := rfl
@[simp] theorem State.setPort_sources (p : Port) (q : PortRecord) : (s.setPort p q).sources = s.sources := rfl
@[simp] theorem State.setPort_poolFree (p : Port) (q : PortRecord) : (s.setPort p q).poolFree = s.poolFree := rfl
@[simp] theorem State.setPort_offers (p : Port) (q : PortRecord) : (s.setPort p q).offers = s.offers := rfl
@[simp] theorem State.setPort_requests (p : Port) (q : PortRecord) : (s.setPort p q).requests = s.requests := rfl
@[simp] theorem State.setPort_units (p : Port) (q : PortRecord) : (s.setPort p q).units = s.units := rfl
@[simp] theorem State.setPort_attn (p : Port) (q : PortRecord) : (s.setPort p q).attn = s.attn := rfl
@[simp] theorem State.setPort_inFlight (p : Port) (q : PortRecord) : (s.setPort p q).inFlight = s.inFlight := rfl
@[simp] theorem State.setPort_handed (p : Port) (q : PortRecord) : (s.setPort p q).handed = s.handed := rfl
@[simp] theorem State.setPort_released (p : Port) (q : PortRecord) : (s.setPort p q).released = s.released := rfl
@[simp] theorem State.setPort_link (p : Port) (q : PortRecord) : (s.setPort p q).link = s.link := rfl
@[simp] theorem State.setPort_pending (p : Port) (q : PortRecord) : (s.setPort p q).pending = s.pending := rfl
@[simp] theorem State.setPort_src (p : Port) (q : PortRecord) (x' : SourceId) : (s.setPort p q).src x' = s.src x' := rfl
@[simp] theorem State.setPort_line (p : Port) (q : PortRecord) (x' : LineId) : (s.setPort p q).line x' = s.line x' := rfl
@[simp] theorem State.setPort_offer (p : Port) (q : PortRecord) (x' : SlotId) : (s.setPort p q).offer x' = s.offer x' := rfl
@[simp] theorem State.setPort_unit (p : Port) (q : PortRecord) (x' : Port) : (s.setPort p q).unit x' = s.unit x' := rfl

/-! ### send -/

@[simp] theorem State.send_pins (ms : List Instr) : (s.send ms).pins = s.pins := rfl
@[simp] theorem State.send_crst (ms : List Instr) : (s.send ms).crst = s.crst := rfl
@[simp] theorem State.send_powerHold (ms : List Instr) : (s.send ms).powerHold = s.powerHold := rfl
@[simp] theorem State.send_time (ms : List Instr) : (s.send ms).time = s.time := rfl
@[simp] theorem State.send_steering (ms : List Instr) : (s.send ms).steering = s.steering := rfl
@[simp] theorem State.send_runState (ms : List Instr) : (s.send ms).runState = s.runState := rfl
@[simp] theorem State.send_window (ms : List Instr) : (s.send ms).window = s.window := rfl
@[simp] theorem State.send_cause (ms : List Instr) : (s.send ms).cause = s.cause := rfl
@[simp] theorem State.send_lines (ms : List Instr) : (s.send ms).lines = s.lines := rfl
@[simp] theorem State.send_sources (ms : List Instr) : (s.send ms).sources = s.sources := rfl
@[simp] theorem State.send_poolFree (ms : List Instr) : (s.send ms).poolFree = s.poolFree := rfl
@[simp] theorem State.send_offers (ms : List Instr) : (s.send ms).offers = s.offers := rfl
@[simp] theorem State.send_requests (ms : List Instr) : (s.send ms).requests = s.requests := rfl
@[simp] theorem State.send_units (ms : List Instr) : (s.send ms).units = s.units := rfl
@[simp] theorem State.send_ports (ms : List Instr) : (s.send ms).ports = s.ports := rfl
@[simp] theorem State.send_attn (ms : List Instr) : (s.send ms).attn = s.attn := rfl
@[simp] theorem State.send_handed (ms : List Instr) : (s.send ms).handed = s.handed := rfl
@[simp] theorem State.send_released (ms : List Instr) : (s.send ms).released = s.released := rfl
@[simp] theorem State.send_link (ms : List Instr) : (s.send ms).link = s.link := rfl
@[simp] theorem State.send_pending (ms : List Instr) : (s.send ms).pending = s.pending := rfl
@[simp] theorem State.send_src (ms : List Instr) (x' : SourceId) : (s.send ms).src x' = s.src x' := rfl
@[simp] theorem State.send_line (ms : List Instr) (x' : LineId) : (s.send ms).line x' = s.line x' := rfl
@[simp] theorem State.send_offer (ms : List Instr) (x' : SlotId) : (s.send ms).offer x' = s.offer x' := rfl
@[simp] theorem State.send_unit (ms : List Instr) (x' : Port) : (s.send ms).unit x' = s.unit x' := rfl
@[simp] theorem State.send_port (ms : List Instr) (x' : Port) : (s.send ms).port x' = s.port x' := rfl

/-! ### arrive -/

@[simp] theorem State.arrive_pins (m : Instr) : (s.arrive m).pins = s.pins := rfl
@[simp] theorem State.arrive_crst (m : Instr) : (s.arrive m).crst = s.crst := rfl
@[simp] theorem State.arrive_powerHold (m : Instr) : (s.arrive m).powerHold = s.powerHold := rfl
@[simp] theorem State.arrive_time (m : Instr) : (s.arrive m).time = s.time := rfl
@[simp] theorem State.arrive_steering (m : Instr) : (s.arrive m).steering = s.steering := rfl
@[simp] theorem State.arrive_runState (m : Instr) : (s.arrive m).runState = s.runState := rfl
@[simp] theorem State.arrive_window (m : Instr) : (s.arrive m).window = s.window := rfl
@[simp] theorem State.arrive_cause (m : Instr) : (s.arrive m).cause = s.cause := rfl
@[simp] theorem State.arrive_lines (m : Instr) : (s.arrive m).lines = s.lines := rfl
@[simp] theorem State.arrive_sources (m : Instr) : (s.arrive m).sources = s.sources := rfl
@[simp] theorem State.arrive_poolFree (m : Instr) : (s.arrive m).poolFree = s.poolFree := rfl
@[simp] theorem State.arrive_offers (m : Instr) : (s.arrive m).offers = s.offers := rfl
@[simp] theorem State.arrive_requests (m : Instr) : (s.arrive m).requests = s.requests := rfl
@[simp] theorem State.arrive_units (m : Instr) : (s.arrive m).units = s.units := rfl
@[simp] theorem State.arrive_ports (m : Instr) : (s.arrive m).ports = s.ports := rfl
@[simp] theorem State.arrive_attn (m : Instr) : (s.arrive m).attn = s.attn := rfl
@[simp] theorem State.arrive_handed (m : Instr) : (s.arrive m).handed = s.handed := rfl
@[simp] theorem State.arrive_released (m : Instr) : (s.arrive m).released = s.released := rfl
@[simp] theorem State.arrive_link (m : Instr) : (s.arrive m).link = s.link := rfl
@[simp] theorem State.arrive_pending (m : Instr) : (s.arrive m).pending = s.pending := rfl
@[simp] theorem State.arrive_src (m : Instr) (x' : SourceId) : (s.arrive m).src x' = s.src x' := rfl
@[simp] theorem State.arrive_line (m : Instr) (x' : LineId) : (s.arrive m).line x' = s.line x' := rfl
@[simp] theorem State.arrive_offer (m : Instr) (x' : SlotId) : (s.arrive m).offer x' = s.offer x' := rfl
@[simp] theorem State.arrive_unit (m : Instr) (x' : Port) : (s.arrive m).unit x' = s.unit x' := rfl
@[simp] theorem State.arrive_port (m : Instr) (x' : Port) : (s.arrive m).port x' = s.port x' := rfl

@[simp] theorem State.send_inFlight (ms : List Instr) : (s.send ms).inFlight = s.inFlight ++ ms := rfl
@[simp] theorem State.arrive_inFlight (m : Instr) : (s.arrive m).inFlight = s.inFlight.erase m := rfl

/-! ### judgeAttn -/

@[simp] theorem judgeAttn_pins : (judgeAttn s).pins = s.pins := rfl
@[simp] theorem judgeAttn_crst : (judgeAttn s).crst = s.crst := rfl
@[simp] theorem judgeAttn_powerHold : (judgeAttn s).powerHold = s.powerHold := rfl
@[simp] theorem judgeAttn_time : (judgeAttn s).time = s.time := rfl
@[simp] theorem judgeAttn_steering : (judgeAttn s).steering = s.steering := rfl
@[simp] theorem judgeAttn_runState : (judgeAttn s).runState = s.runState := rfl
@[simp] theorem judgeAttn_window : (judgeAttn s).window = s.window := rfl
@[simp] theorem judgeAttn_cause : (judgeAttn s).cause = s.cause := rfl
@[simp] theorem judgeAttn_lines : (judgeAttn s).lines = s.lines := rfl
@[simp] theorem judgeAttn_sources : (judgeAttn s).sources = s.sources := rfl
@[simp] theorem judgeAttn_poolFree : (judgeAttn s).poolFree = s.poolFree := rfl
@[simp] theorem judgeAttn_offers : (judgeAttn s).offers = s.offers := rfl
@[simp] theorem judgeAttn_requests : (judgeAttn s).requests = s.requests := rfl
@[simp] theorem judgeAttn_units : (judgeAttn s).units = s.units := rfl
@[simp] theorem judgeAttn_ports : (judgeAttn s).ports = s.ports := rfl
@[simp] theorem judgeAttn_inFlight : (judgeAttn s).inFlight = s.inFlight := rfl
@[simp] theorem judgeAttn_handed : (judgeAttn s).handed = s.handed := rfl
@[simp] theorem judgeAttn_released : (judgeAttn s).released = s.released := rfl
@[simp] theorem judgeAttn_link : (judgeAttn s).link = s.link := rfl
@[simp] theorem judgeAttn_pending : (judgeAttn s).pending = s.pending := rfl
@[simp] theorem judgeAttn_src (x' : SourceId) : (judgeAttn s).src x' = s.src x' := rfl
@[simp] theorem judgeAttn_line (x' : LineId) : (judgeAttn s).line x' = s.line x' := rfl
@[simp] theorem judgeAttn_offer (x' : SlotId) : (judgeAttn s).offer x' = s.offer x' := rfl
@[simp] theorem judgeAttn_unit (x' : Port) : (judgeAttn s).unit x' = s.unit x' := rfl
@[simp] theorem judgeAttn_port (x' : Port) : (judgeAttn s).port x' = s.port x' := rfl
@[simp] theorem judgeAttn_attn : (judgeAttn s).attn = portsWhere (attnCondition s) := rfl

/-! ### Reading what was written -/

@[simp] theorem State.setSrc_src_same (i : SourceId) (r : Source) : (s.setSrc i r).src i = r := by
  simp [State.setSrc, State.src]

theorem State.setSrc_src_ne (i i' : SourceId) (r : Source) (h : i' ≠ i) : (s.setSrc i r).src i' = s.src i' := by
  have h' : i.val ≠ i'.val := fun e => h (Fin.ext e.symm)
  simp [State.setSrc, State.src, Vector.getElem_set_ne, h']

theorem State.setSrc_src (i i' : SourceId) (r : Source) :
    (s.setSrc i r).src i' = if i' = i then r else s.src i' := by
  split
  · next h => subst h; simp
  · next h => exact State.setSrc_src_ne s i i' r h

/-- Writing back what is there changes nothing. -/
@[simp] theorem State.setSrc_self (i : SourceId) : s.setSrc i (s.src i) = s := by
  simp [State.setSrc, State.src]

/-- The later of two writes to one place stands. -/
@[simp] theorem State.setSrc_setSrc (i : SourceId) (r r' : Source) :
    (s.setSrc i r).setSrc i r' = s.setSrc i r' := by
  simp [State.setSrc]

@[simp] theorem State.setLine_line_same (l : LineId) (x : Line) : (s.setLine l x).line l = x := by
  simp [State.setLine, State.line]

theorem State.setLine_line_ne (l l' : LineId) (x : Line) (h : l' ≠ l) : (s.setLine l x).line l' = s.line l' := by
  have h' : l.val ≠ l'.val := fun e => h (Fin.ext e.symm)
  simp [State.setLine, State.line, Vector.getElem_set_ne, h']

theorem State.setLine_line (l l' : LineId) (x : Line) :
    (s.setLine l x).line l' = if l' = l then x else s.line l' := by
  split
  · next h => subst h; simp
  · next h => exact State.setLine_line_ne s l l' x h

/-- Writing back what is there changes nothing. -/
@[simp] theorem State.setLine_self (l : LineId) : s.setLine l (s.line l) = s := by
  simp [State.setLine, State.line]

/-- The later of two writes to one place stands. -/
@[simp] theorem State.setLine_setLine (l : LineId) (x x' : Line) :
    (s.setLine l x).setLine l x' = s.setLine l x' := by
  simp [State.setLine]

@[simp] theorem State.setOffer_offer_same (k : SlotId) (x : OfferSlot) : (s.setOffer k x).offer k = x := by
  simp [State.setOffer, State.offer]

theorem State.setOffer_offer_ne (k k' : SlotId) (x : OfferSlot) (h : k' ≠ k) : (s.setOffer k x).offer k' = s.offer k' := by
  have h' : k.val ≠ k'.val := fun e => h (Fin.ext e.symm)
  simp [State.setOffer, State.offer, Vector.getElem_set_ne, h']

theorem State.setOffer_offer (k k' : SlotId) (x : OfferSlot) :
    (s.setOffer k x).offer k' = if k' = k then x else s.offer k' := by
  split
  · next h => subst h; simp
  · next h => exact State.setOffer_offer_ne s k k' x h

/-- Writing back what is there changes nothing. -/
@[simp] theorem State.setOffer_self (k : SlotId) : s.setOffer k (s.offer k) = s := by
  simp [State.setOffer, State.offer]

/-- The later of two writes to one place stands. -/
@[simp] theorem State.setOffer_setOffer (k : SlotId) (x x' : OfferSlot) :
    (s.setOffer k x).setOffer k x' = s.setOffer k x' := by
  simp [State.setOffer]

@[simp] theorem State.setUnit_unit_same (p : Port) (d : DeliveryUnit) : (s.setUnit p d).unit p = d := by
  simp [State.setUnit, State.unit]

theorem State.setUnit_unit_ne (p p' : Port) (d : DeliveryUnit) (h : p' ≠ p) : (s.setUnit p d).unit p' = s.unit p' := by
  have h' : p.val ≠ p'.val := fun e => h (Fin.ext e.symm)
  simp [State.setUnit, State.unit, Vector.getElem_set_ne, h']

theorem State.setUnit_unit (p p' : Port) (d : DeliveryUnit) :
    (s.setUnit p d).unit p' = if p' = p then d else s.unit p' := by
  split
  · next h => subst h; simp
  · next h => exact State.setUnit_unit_ne s p p' d h

/-- Writing back what is there changes nothing. -/
@[simp] theorem State.setUnit_self (p : Port) : s.setUnit p (s.unit p) = s := by
  simp [State.setUnit, State.unit]

/-- The later of two writes to one place stands. -/
@[simp] theorem State.setUnit_setUnit (p : Port) (d d' : DeliveryUnit) :
    (s.setUnit p d).setUnit p d' = s.setUnit p d' := by
  simp [State.setUnit]

@[simp] theorem State.setPort_port_same (p : Port) (q : PortRecord) : (s.setPort p q).port p = q := by
  simp [State.setPort, State.port]

theorem State.setPort_port_ne (p p' : Port) (q : PortRecord) (h : p' ≠ p) : (s.setPort p q).port p' = s.port p' := by
  have h' : p.val ≠ p'.val := fun e => h (Fin.ext e.symm)
  simp [State.setPort, State.port, Vector.getElem_set_ne, h']

theorem State.setPort_port (p p' : Port) (q : PortRecord) :
    (s.setPort p q).port p' = if p' = p then q else s.port p' := by
  split
  · next h => subst h; simp
  · next h => exact State.setPort_port_ne s p p' q h

/-- Writing back what is there changes nothing. -/
@[simp] theorem State.setPort_self (p : Port) : s.setPort p (s.port p) = s := by
  simp [State.setPort, State.port]

/-- The later of two writes to one place stands. -/
@[simp] theorem State.setPort_setPort (p : Port) (q q' : PortRecord) :
    (s.setPort p q).setPort p q' = s.setPort p q' := by
  simp [State.setPort]

/-! ### Copies and service slots -/

@[simp] theorem Batch.setCopy_copy_same (b : Batch) (p : Port) (c : CopyState) : (b.setCopy p c).copy p = c := by
  simp [Batch.setCopy, Batch.copy]

theorem Batch.setCopy_copy_ne (b : Batch) (p q : Port) (c : CopyState) (h : q ≠ p) :
    (b.setCopy p c).copy q = b.copy q := by
  have h' : p.val ≠ q.val := fun e => h (Fin.ext e.symm)
  simp [Batch.setCopy, Batch.copy, Vector.getElem_set_ne, h']

@[simp] theorem Batch.setCopy_ref (b : Batch) (p : Port) (c : CopyState) : (b.setCopy p c).ref = b.ref := rfl
@[simp] theorem Batch.setCopy_count (b : Batch) (p : Port) (c : CopyState) : (b.setCopy p c).count = b.count := rfl
@[simp] theorem Batch.setCopy_overrun (b : Batch) (p : Port) (c : CopyState) : (b.setCopy p c).overrun = b.overrun := rfl
@[simp] theorem Batch.setCopy_stamp (b : Batch) (p : Port) (c : CopyState) : (b.setCopy p c).stamp = b.stamp := rfl
@[simp] theorem Batch.setCopy_payload (b : Batch) (p : Port) (c : CopyState) : (b.setCopy p c).payload = b.payload := rfl
@[simp] theorem Batch.setCopy_form (b : Batch) (p : Port) (c : CopyState) : (b.setCopy p c).form = b.form := rfl
@[simp] theorem Batch.setCopy_priority (b : Batch) (p : Port) (c : CopyState) : (b.setCopy p c).priority = b.priority := rfl
@[simp] theorem Batch.setCopy_excluded (b : Batch) (p : Port) (c : CopyState) : (b.setCopy p c).excluded = b.excluded := rfl
@[simp] theorem Batch.setCopy_offer (b : Batch) (p : Port) (c : CopyState) : (b.setCopy p c).offer = b.offer := rfl

@[simp] theorem DeliveryUnit.setSlot_slot_same (d : DeliveryUnit) (k : ServiceSlotId) (x : ServiceSlot) :
    (d.setSlot k x).slot k = x := by
  simp [DeliveryUnit.setSlot, DeliveryUnit.slot]

theorem DeliveryUnit.setSlot_slot_ne (d : DeliveryUnit) (k j : ServiceSlotId) (x : ServiceSlot) (h : j ≠ k) :
    (d.setSlot k x).slot j = d.slot j := by
  have h' : k.val ≠ j.val := fun e => h (Fin.ext e.symm)
  simp [DeliveryUnit.setSlot, DeliveryUnit.slot, Vector.getElem_set_ne, h']

@[simp] theorem DeliveryUnit.setSlot_entries (d : DeliveryUnit) (k : ServiceSlotId) (x : ServiceSlot) :
    (d.setSlot k x).entries = d.entries := rfl
@[simp] theorem DeliveryUnit.setSlot_owed (d : DeliveryUnit) (k : ServiceSlotId) (x : ServiceSlot) :
    (d.setSlot k x).owed = d.owed := rfl
@[simp] theorem DeliveryUnit.setSlot_notices (d : DeliveryUnit) (k : ServiceSlotId) (x : ServiceSlot) :
    (d.setSlot k x).notices = d.notices := rfl
@[simp] theorem DeliveryUnit.setSlot_claims (d : DeliveryUnit) (k : ServiceSlotId) (x : ServiceSlot) :
    (d.setSlot k x).claims = d.claims := rfl
@[simp] theorem DeliveryUnit.setSlot_seq (d : DeliveryUnit) (k : ServiceSlotId) (x : ServiceSlot) :
    (d.setSlot k x).seq = d.seq := rfl
@[simp] theorem DeliveryUnit.setSlot_mask (d : DeliveryUnit) (k : ServiceSlotId) (x : ServiceSlot) :
    (d.setSlot k x).mask = d.mask := rfl
@[simp] theorem DeliveryUnit.setSlot_gateOpen (d : DeliveryUnit) (k : ServiceSlotId) (x : ServiceSlot) :
    (d.setSlot k x).gateOpen = d.gateOpen := rfl
@[simp] theorem DeliveryUnit.setSlot_gateOnTake (d : DeliveryUnit) (k : ServiceSlotId) (x : ServiceSlot) :
    (d.setSlot k x).gateOnTake = d.gateOnTake := rfl
@[simp] theorem DeliveryUnit.setSlot_revoked (d : DeliveryUnit) (k : ServiceSlotId) (x : ServiceSlot) :
    (d.setSlot k x).revoked = d.revoked := rfl
@[simp] theorem DeliveryUnit.setSlot_limit (d : DeliveryUnit) (k : ServiceSlotId) (x : ServiceSlot) :
    (d.setSlot k x).limit = d.limit := rfl

/-! ### Sets of ports -/

/-- A set given by a test has the ports that pass it. -/
theorem portIn_portsWhere (test : Port → Bool) (p : Port) : portIn p (portsWhere test) = test p := by
  have key : ∀ a b c d : Bool, ∀ p : Port,
      portIn p (portsWhere fun q => #v[a, b, c, d][q.val]) = #v[a, b, c, d][p.val] := by decide
  have h := key (test 0) (test 1) (test 2) (test 3) p
  have e : (fun q : Port => #v[test 0, test 1, test 2, test 3][q.val]) = test := by
    funext q
    match q with
    | 0 | 1 | 2 | 3 => rfl
  rw [e] at h
  rw [h]
  exact congrFun e p

end Sys2Proof.Machine
end

