-- ==== Sys2Proof/Laws/Bytes.lean ====
section
/-! SUPPORT. What the argument bytes name, and the members of sets of ports. -/

namespace Sys2Proof.Machine

/-! ### Sets of ports -/

theorem portIn_onePort : ∀ p q : Port, portIn p (onePort q) = decide (p = q) := by decide

theorem portIn_withPort : ∀ (S : PortSet) (p q : Port), portIn q (withPort S p) = (portIn q S || decide (q = p)) := by
  decide

theorem portIn_withoutPort : ∀ (S : PortSet) (p q : Port), portIn q (withoutPort S p) = (portIn q S && decide (q ≠ p)) := by
  decide

theorem withoutPort_onePort : ∀ p : Port, withoutPort (onePort p) p = 0#4 := by decide

theorem portsOf_onePort : ∀ p : Port, portsOf (onePort p) = [p] := by decide

theorem mem_allPorts : ∀ p : Port, p ∈ allPorts := by decide

/-- A set is empty when no port is in it. -/
theorem portSet_empty_iff : ∀ S : PortSet, S = 0#4 ↔ ∀ p : Port, portIn p S = false := by decide

theorem portIn_attachedOf (s : State) (S : PortSet) (p : Port) :
    portIn p (attachedOf s S) = (portIn p S && attached s p) := by
  simp [attachedOf, portIn_portsWhere]

theorem portIn_candidatesOf (s : State) (targets excluded : PortSet) (p : Port) :
    portIn p (candidatesOf s targets excluded) = (portIn p targets && attached s p && !portIn p excluded) := by
  simp [candidatesOf, portIn_portsWhere]

theorem portIn_seenOf (s : State) (S : PortSet) (p : Port) :
    portIn p (seenOf s S) = (portIn p S && tableSees s p) := by
  simp [seenOf, portIn_portsWhere]

/-- What a formation attempt reads of a port (R127). -/
theorem tableSees_iff (s : State) (p : Port) : tableSees s p = true ↔ seen s p := by
  simp [tableSees, seen, attached]

theorem seenFallback_some {s : State} {r : Routing} {f : Port} :
    seenFallback s r = some f ↔ r.fallback = some f ∧ seen s f := by
  simp [seenFallback, Option.filter_eq_some_iff, tableSees_iff]

theorem seenFallback_none {s : State} {r : Routing} :
    seenFallback s r = none ↔ ∀ f, r.fallback = some f → ¬ seen s f := by
  simp [seenFallback, Option.filter_eq_none_iff, tableSees_iff]

theorem usableFallback_some {s : State} {r : Routing} {S : PortSet} {f : Port} :
    usableFallback s r S = some f ↔ r.fallback = some f ∧ (s.port f).pstate = .attached ∧ portIn f S = false := by
  simp [usableFallback, Option.filter_eq_some_iff, attached]

theorem usableFallback_none {s : State} {r : Routing} {S : PortSet} :
    usableFallback s r S = none ↔ ∀ f, r.fallback = some f → (s.port f).pstate = .attached → portIn f S = true := by
  simp [usableFallback, Option.filter_eq_none_iff, attached]

theorem attachedOf_nonempty (s : State) (S : PortSet) :
    attachedOf s S ≠ 0#4 ↔ ∃ p, portIn p S = true ∧ (s.port p).pstate = .attached := by
  rw [ne_eq, portSet_empty_iff]
  simp [portIn_attachedOf, attached]

theorem attached_iff (s : State) (p : Port) : attached s p = true ↔ (s.port p).pstate = .attached := by
  simp [attached]

/-! ### Ids in argument bytes -/

theorem sourceOf_ofNat : ∀ i : SourceId, sourceOf (BitVec.ofNat 8 i.val) = some i := by decide

theorem sourceOf_none {b : Byte} (h : 48 ≤ b.toNat) : sourceOf b = none := by
  simp [sourceOf]; omega

theorem slotOf_ofNat : ∀ k : SlotId, slotOf (BitVec.ofNat 8 k.val) = some k := by decide

theorem slotOf_none {b : Byte} (h : 16 ≤ b.toNat) : slotOf b = none := by
  simp [slotOf]; omega

theorem portOf_ofNat : ∀ p : Port, portOf (BitVec.ofNat 8 p.val) = some p := by decide

theorem portOf_none {b : Byte} (h : 4 ≤ b.toNat) : portOf b = none := by
  simp [portOf]; omega

theorem portOf_some {b : Byte} {p : Port} (h : portOf b = some p) : b = BitVec.ofNat 8 p.val := by
  unfold portOf at h
  split at h <;> cases h
  simp

theorem lineOf_sourceOfLine (l : LineId) : lineOf (sourceOfLine l) = some l := by simp [lineOf, sourceOfLine]

/-- The two bytes of a word, the most significant first, read back the word. -/
theorem wordOf_bytes (w : Word) : wordOf (w.extractLsb' 8 8) (w.extractLsb' 0 8) = w := by
  apply BitVec.eq_of_toNat_eq
  have e : (wordOf (w.extractLsb' 8 8) (w.extractLsb' 0 8)).toNat =
      (w.extractLsb' 8 8).toNat <<< 8 ||| (w.extractLsb' 0 8).toNat :=
    BitVec.toNat_append (w.extractLsb' 8 8) (w.extractLsb' 0 8)
  have hw := w.isLt
  have hor : w.toNat / 256 % 256 * 256 ||| w.toNat % 256 = w.toNat / 256 % 256 * 256 + w.toNat % 256 := by
    have := Nat.shiftLeft_add_eq_or_of_lt (i := 8) (b := w.toNat % 256) (by omega) (w.toNat / 256 % 256)
    rw [Nat.shiftLeft_eq] at this
    exact this.symm
  rw [e]
  simp only [BitVec.extractLsb'_toNat, Nat.shiftLeft_eq, Nat.shiftRight_eq_div_pow,
    show (2 : Nat) ^ 8 = 256 from rfl, show (2 : Nat) ^ 0 = 1 from rfl, Nat.div_one]
  rw [hor]
  omega

/-! ### Searches over slots -/

/-- The first element of an ascending list that passes a test is the lowest one that does. -/
theorem find_lowest {n : Nat} (test : Fin n → Bool) (k : Fin n) (h : test k = true)
    (hlow : ∀ j, j < k → test j = false) (l : List (Fin n)) (hl : l.Pairwise (· < ·)) (hk : k ∈ l) :
    l.find? test = some k := by
  induction l with
  | nil => simp at hk
  | cons a l ih =>
    rw [List.pairwise_cons] at hl
    rcases List.mem_cons.1 hk with rfl | hk
    · simp [h]
    · simp [hlow a (hl.1 k hk), ih hl.2 hk]

/-- A search with exactly one answer finds it. -/
theorem findSome_only {α β : Type} (f : α → Option β) (k : α) (b : β) (h : f k = some b) (l : List α) (hk : k ∈ l)
    (honly : ∀ j ∈ l, j ≠ k → f j = none) : l.findSome? f = some b := by
  induction l with
  | nil => simp at hk
  | cons a l ih =>
    by_cases e : a = k
    · subst e; simp [h]
    · rw [List.findSome?_cons, honly a (by simp) e]
      exact ih (by simpa [Ne.symm e] using hk) fun j hj => honly j (by simp [hj])

theorem mem_allOfferSlots : ∀ k : SlotId, k ∈ allOfferSlots := by decide

theorem mem_allServiceSlots : ∀ k : ServiceSlotId, k ∈ allServiceSlots := by decide

theorem lowestFreeOffer_eq {s : State} {k : SlotId} (h : s.offer k = .free) (hlow : ∀ j, j < k → s.offer j ≠ .free) :
    lowestFreeOffer s = some k :=
  find_lowest _ k (by simp [h]) (fun j hj => by simp [hlow j hj]) _ (by decide) (mem_allOfferSlots k)

theorem lowestFreeOffer_none {s : State} (h : ∀ k, s.offer k ≠ .free) : lowestFreeOffer s = none := by
  simp [lowestFreeOffer, h]

theorem lowestFreeSlot_eq {d : DeliveryUnit} {k : ServiceSlotId} (h : d.slot k = .free)
    (hlow : ∀ j, j < k → d.slot j ≠ .free) : lowestFreeSlot d = some k :=
  find_lowest _ k (by simp [h]) (fun j hj => by simp [hlow j hj]) _ (by decide) (mem_allServiceSlots k)

theorem lowestFreeSlot_none {d : DeliveryUnit} (h : ∀ k, d.slot k ≠ .free) : lowestFreeSlot d = none := by
  simp [lowestFreeSlot, h]

theorem findOffer_only {s : State} {test : Offer → Bool} {k : SlotId} {o : Offer} (h : s.offer k = .opened o)
    (ht : test o = true) (honly : ∀ j o', s.offer j = .opened o' → test o' = true → j = k) :
    findOffer s test = some (k, o) := by
  refine findSome_only _ k (k, o) (by simp [h, openIf, ht]) _ (mem_allOfferSlots k) fun j _ hj => ?_
  cases hs : s.offer j with
  | free => simp [openIf]
  | reserved _ _ _ => simp [openIf]
  | opened o' =>
    simp only [openIf]
    split
    · next h => exact absurd (honly j o' hs h) hj
    · rfl

theorem findOffer_none {s : State} {test : Offer → Bool} (h : ∀ k o, s.offer k = .opened o → test o = false) :
    findOffer s test = none := by
  rw [findOffer, List.findSome?_eq_none_iff]
  intro j _
  cases hs : s.offer j with
  | free => simp [openIf]
  | reserved _ _ _ => simp [openIf]
  | opened o' => simp [openIf, h j o' hs]

/-- What a search of the offers answers. -/
theorem findOffer_spec {s : State} {test : Offer → Bool} {k : SlotId} {o : Offer} (h : findOffer s test = some (k, o)) :
    s.offer k = .opened o ∧ test o = true := by
  unfold findOffer at h
  obtain ⟨j, -, hj⟩ := List.exists_of_findSome?_eq_some h
  cases hs : s.offer j with
  | free => simp [hs, openIf] at hj
  | reserved _ _ _ => simp [hs, openIf] at hj
  | opened o' =>
    simp only [hs, openIf] at hj
    split at hj
    · simp at hj; obtain ⟨rfl, rfl⟩ := hj; exact ⟨hs, by assumption⟩
    · simp at hj

theorem findHeld_only {d : DeliveryUnit} {test : ServiceRecord → Bool} {k : ServiceSlotId} {r : ServiceRecord}
    (h : d.slot k = .held r) (ht : test r = true) (honly : ∀ j r', d.slot j = .held r' → test r' = true → j = k) :
    findHeld d test = some (k, r) := by
  refine findSome_only _ k (k, r) (by simp [h, ht]) _ (mem_allServiceSlots k) fun j _ hj => ?_
  cases hs : d.slot j with
  | free => simp
  | reserved _ => simp
  | held r' =>
    simp only []
    split
    · next h => exact absurd (honly j r' hs h) hj
    · rfl

theorem findHeld_none {d : DeliveryUnit} {test : ServiceRecord → Bool}
    (h : ∀ k r, d.slot k = .held r → test r = false) : findHeld d test = none := by
  rw [findHeld, List.findSome?_eq_none_iff]
  intro j _
  cases hs : d.slot j with
  | free => simp
  | reserved _ => simp
  | held r => simp [h j r hs]

/-- What a search of the service slots answers. -/
theorem findHeld_spec {d : DeliveryUnit} {test : ServiceRecord → Bool} {k : ServiceSlotId} {r : ServiceRecord}
    (h : findHeld d test = some (k, r)) : d.slot k = .held r ∧ test r = true := by
  unfold findHeld at h
  obtain ⟨j, -, hj⟩ := List.exists_of_findSome?_eq_some h
  cases hs : d.slot j with
  | free => simp [hs] at hj
  | reserved _ => simp [hs] at hj
  | held r' =>
    simp only [hs] at hj
    split at hj
    · simp at hj; obtain ⟨rfl, rfl⟩ := hj; exact ⟨hs, by assumption⟩
    · simp at hj

end Sys2Proof.Machine
end

