-- ==== Sys2Proof/Laws/Steps.lean ====
section
/-! SUPPORT. What attention, messages, frames and the parts of the state do, said once for every command. -/

namespace Sys2Proof.Machine

/-! ### Attention -/

theorem firstByPriority_isSome (l : List Placement) : (firstByPriority l).isSome = true ↔ l ≠ [] := by
  cases l with
  | nil => simp [firstByPriority]
  | cons e rest =>
    simp only [firstByPriority]
    cases firstByPriority rest with
    | none => simp
    | some f => simp; split <;> simp

theorem firstVisible_isSome (d : DeliveryUnit) : (firstVisible d).isSome = true ↔ somethingVisible d := by
  unfold firstVisible somethingVisible
  cases hn : d.notices with
  | nil =>
    simp only [Option.isSome_map, firstByPriority_isSome, ne_eq, not_true_eq_false, false_or]
    simp only [visible, List.filter_eq_nil_iff]
    constructor
    · intro h
      by_contra hc
      exact h fun a ha hv => hc ⟨a, ha, hv⟩
    · rintro ⟨e, he, hv⟩ h
      exact h e he hv
  | cons n rest => simp

theorem attnCondition_iff (s : State) (p : Port) : attnCondition s p = true ↔
    s.crst = false ∧ (s.port p).pstate = .attached ∧ (s.unit p).gateOpen = true ∧ somethingVisible (s.unit p) := by
  simp [attnCondition, attached, firstVisible_isSome, and_assoc]

/-- A judged state keeps the law of ATTN. -/
theorem judgeAttn_attnLaw (s : State) : attnLaw (judgeAttn s) := by
  intro p
  rw [judgeAttn_attn, portIn_portsWhere, attnCondition_iff]
  simp

/-- The law of ATTN reads the pin, CRST, the port states and the Delivery Units. -/
theorem attnLaw_congr {s t : State} (ha : t.attn = s.attn) (hc : t.crst = s.crst)
    (hp : ∀ p, (t.port p).pstate = (s.port p).pstate) (hu : t.units = s.units) : attnLaw s ↔ attnLaw t := by
  have hu' : ∀ p, t.unit p = s.unit p := fun p => by simp [State.unit, hu]
  simp [attnLaw, ha, hc, hp, hu']

/-! ### Messages and events -/

theorem eventStep_running (m : Instr) (act : State → State) (s : State) (h : s.crst = false) :
    eventStep m act s = .next (judgeAttn (act (s.arrive m))) := by
  simp [eventStep, h]

theorem eventStep_held (m : Instr) (act : State → State) (s : State) (h : s.crst = true) :
    eventStep m act s = .next s := by
  simp [eventStep, h]

/-- What a message or event can do: nothing while CRST is asserted, else its act and the judgement of ATTN. -/
theorem eventStep_cases {m : Instr} {act : State → State} {s t : State} (h : eventStep m act s = .next t) :
    s.crst = true ∧ t = s ∨ s.crst = false ∧ t = judgeAttn (act (s.arrive m)) := by
  cases hc : s.crst with
  | true => rw [eventStep_held _ _ _ hc] at h; cases h; exact .inl ⟨rfl, rfl⟩
  | false => rw [eventStep_running _ _ _ hc] at h; cases h; exact .inr ⟨rfl, rfl⟩

/-! ### Parts of the state -/

theorem samePart_refl (s : State) (q : Part) : samePart s s q := by
  cases q <;> simp [samePart]

theorem sameBut_iff (changed : List Part) (s t : State) : sameBut changed s t ↔
    (.pins ∉ changed → t.pins = s.pins ∧ t.crst = s.crst ∧ t.powerHold = s.powerHold) ∧
    (.time ∉ changed → t.time = s.time) ∧
    (.control ∉ changed → t.steering = s.steering ∧ t.runState = s.runState ∧ t.window = s.window ∧ t.cause = s.cause) ∧
    (.lines ∉ changed → t.lines = s.lines) ∧ (.sources ∉ changed → t.sources = s.sources) ∧
    (.pool ∉ changed → t.poolFree = s.poolFree) ∧ (.offers ∉ changed → t.offers = s.offers) ∧
    (.requests ∉ changed → t.requests = s.requests) ∧ (.units ∉ changed → t.units = s.units) ∧
    (.ports ∉ changed → t.ports = s.ports) ∧ (.attn ∉ changed → t.attn = s.attn) ∧
    (.messages ∉ changed → t.inFlight = s.inFlight) ∧
    (.waiting ∉ changed → t.handed = s.handed ∧ t.released = s.released ∧ t.link = s.link ∧ t.pending = s.pending) := by
  constructor
  · intro h
    exact ⟨h .pins, h .time, h .control, h .lines, h .sources, h .pool, h .offers, h .requests, h .units, h .ports,
      h .attn, h .messages, h .waiting⟩
  · rintro ⟨h1, h2, h3, h4, h5, h6, h7, h8, h9, h10, h11, h12, h13⟩ q hq
    cases q with
    | pins => exact h1 hq
    | time => exact h2 hq
    | control => exact h3 hq
    | lines => exact h4 hq
    | sources => exact h5 hq
    | pool => exact h6 hq
    | offers => exact h7 hq
    | requests => exact h8 hq
    | units => exact h9 hq
    | ports => exact h10 hq
    | attn => exact h11 hq
    | messages => exact h12 hq
    | waiting => exact h13 hq

/-! ### Frames -/

theorem frameReady_iff (p : Port) (s : State) : frameReady p s = true ↔
    s.crst = false ∧ (s.port p).inReset = false ∧ (s.port p).csIgnored = false ∧ (s.port p).running = none ∧
    handedFrom s p = false ∧ (s.port p).held = [] ∧ s.released = false := by
  simp [frameReady, takesFrames, portFree, and_assoc]

/-- With nothing waiting in the Port Interface, nothing is handed on. -/
theorem handNext_nothing {p : Port} {s : State} (h : (s.port p).held = []) : handNext p s = s := by
  unfold handNext
  split
  · simp [h]
  · rfl

/-- The next command that waits is handed on once the port is free. -/
theorem handNext_first {p : Port} {s : State} {c : Instr} {rest : List Instr} (hf : portFree s p = true)
    (h : (s.port p).held = c :: rest) :
    handNext p s = { s.setPort p { s.port p with held := rest } with handed := s.handed ++ [c] } := by
  simp [handNext, hf, h]

theorem takeCommand_ready {c : Instr} {p : Port} {a : Access} {body : Body} {s : State} (h : frameReady p s = true) :
    takeCommand c p a body s = handNext p (runCommand c p a body (beginFrame c p s)) := by
  have hr := (frameReady_iff p s).1 h
  have ht : takesFrames s p = true := by simp [takesFrames, hr]
  have hf : portFree (beginFrame c p s) p = true := by
    simp [portFree, beginFrame, hr, handedFrom]
    simpa [handedFrom] using hr.2.2.2.2.1
  simp [takeCommand, hr, ht, hf]

/-- A command taken at once and answered, whose body leaves its own port's record but for the port state and tag: the answer
is driven and stored, and nothing else is added to what the body did. -/
theorem takeCommand_answered {c : Instr} {p : Port} {a : Access} {body : Body} {s u : State} {ans : Answer}
    {q : PortRecord} (h : frameReady p s = true) (hc : portCheck a (s.port p).pstate = none)
    (hb : body (beginFrame c p s) = (u, some ans))
    (hu : u.port p = { q with
      frame := some (awaitedFrame c) })
    (hq : q.held = []) :
    takeCommand c p a body s = u.setPort p (replied c p ans q) := by
  rw [takeCommand_ready h]
  have hcheck : portCheck a ((beginFrame c p s).port p).pstate = none := by simpa [beginFrame] using hc
  have hrec : answered c p ans (u.port p) = replied c p ans q := by
    rw [hu]
    simp [answered, replied, frameAnswered, awaitedFrame, responseOf, hq, driven]
  have hrun : runCommand c p a body (beginFrame c p s) = u.setPort p (replied c p ans q) := by
    simp [runCommand, hcheck, hb, answer, hrec]
  rw [hrun, handNext_nothing]
  simp [replied, hq]

/-- A command refused at the port-state check (R125). -/
theorem takeCommand_refused {c : Instr} {p : Port} {a : Access} {body : Body} {s : State} {st : Status}
    (h : frameReady p s = true) (hc : portCheck a (s.port p).pstate = some st) :
    takeCommand c p a body s = s.setPort p (replied c p (zeroAnswer c st) (s.port p)) := by
  have hr := (frameReady_iff p s).1 h
  rw [takeCommand_ready h]
  have hcheck : portCheck a ((beginFrame c p s).port p).pstate = some st := by simpa [beginFrame] using hc
  have hrun : runCommand c p a body (beginFrame c p s) = s.setPort p (replied c p (zeroAnswer c st) (s.port p)) := by
    simp only [runCommand, hcheck]
    simp [answer, answered, beginFrame, frameAnswered, awaitedFrame, responseOf, hr, replied, driven]
  rw [hrun, handNext_nothing]
  simp [replied, hr]

/-- A command whose port is not free waits (R174). -/
theorem takeCommand_waits {c : Instr} {p : Port} {a : Access} {body : Body} {s : State}
    (ht : takesFrames s p = true) (hr : s.released = false) (hf : portFree s p = false) :
    takeCommand c p a body s = s.setPort p { s.port p with
      frame := some (awaitedFrame c),
      held := (s.port p).held ++ [c] } := by
  have hf' : portFree (beginFrame c p s) p = false := by
    simpa [portFree, beginFrame, handedFrom] using hf
  simp only [takeCommand, hr, ht, hf', Bool.false_eq_true, if_true, if_false]
  simp [beginFrame]

/-- A port that takes no frame ignores a command row. -/
theorem takeCommand_ignored {c : Instr} {p : Port} {a : Access} {body : Body} {s : State}
    (ht : takesFrames s p = false) (hr : s.released = false) : takeCommand c p a body s = s := by
  simp [takeCommand, hr, ht]

end Sys2Proof.Machine
end

