-- ==== Sys2Proof/Laws/Source.lean ====
section
/-! SUPPORT. What the Source Table's operations can do, said once for each. -/

namespace Sys2Proof.Machine

/-! ### Sending and replacing -/

@[simp] theorem State.send_nil (s : State) : s.send [] = s := by simp [State.send]

@[simp] theorem State.send_send (s : State) (a b : List Instr) : (s.send a).send b = s.send (a ++ b) := by
  simp [State.send]

theorem State.setSrc_send (s : State) (i : SourceId) (r : Source) (ms : List Instr) :
    (s.send ms).setSrc i r = (s.setSrc i r).send ms := rfl

theorem sameBut_trans {l l₁ l₂ : List Part} {s t u : State} (h₁ : sameBut l₁ s t) (h₂ : sameBut l₂ t u)
    (s₁ : l₁ ⊆ l) (s₂ : l₂ ⊆ l) : sameBut l s u := by
  intro q hq
  have a := h₁ q fun h => hq (s₁ h)
  have b := h₂ q fun h => hq (s₂ h)
  cases q <;> simp only [samePart] at * <;> simp_all

theorem sameBut_refl (l : List Part) (s : State) : sameBut l s s := fun q _ => samePart_refl s q

/-! ### Copies of a batch -/

/-- A batch's copies determine each port's copy. -/
theorem Batch.copy_congr {b b' : Batch} (h : b'.copies = b.copies) (p : Port) : b'.copy p = b.copy p := by
  simp only [Batch.copy, h]

@[simp] theorem mapCopies_copy (f : Port → CopyState → CopyState) (b : Batch) (p : Port) :
    (mapCopies f b).copy p = f p (b.copy p) := by
  match p with
  | 0 | 1 | 2 | 3 => rfl

theorem Batch.setCopy_copy (b : Batch) (p q : Port) (c : CopyState) :
    (b.setCopy p c).copy q = if q = p then c else b.copy q := by
  split
  · next h => subst h; simp
  · next h => exact Batch.setCopy_copy_ne _ _ _ _ h

@[simp] theorem newBatch_copy (r : Source) (form : Form) (p : Port) : (newBatch r form).copy p = .noCopy := by
  unfold newBatch
  cases r.routing.kind <;> (match p with | 0 | 1 | 2 | 3 => rfl)

theorem someCopy_iff (b : Batch) (test : CopyState → Bool) : someCopy b test = true ↔ ∃ p, test (b.copy p) = true := by
  simp only [someCopy, List.any_eq_true]
  exact ⟨fun ⟨p, _, h⟩ => ⟨p, h⟩, fun ⟨p, h⟩ => ⟨p, mem_allPorts p, h⟩⟩

theorem someCopy_false_iff (b : Batch) (test : CopyState → Bool) :
    someCopy b test = false ↔ ∀ p, test (b.copy p) = false := by
  rw [← Bool.not_eq_true, someCopy_iff]
  simp

/-! ### The batch a report names -/

theorem batchOf_named {s : State} {i : SourceId} {b : Batch} (h : (s.src i).batch = some b) :
    batchOf s i b.ref = some b := by
  simp [batchOf, h]

theorem batchOf_none {s : State} {i : SourceId} {ref : Nat} (h : ∀ b, (s.src i).batch = some b → b.ref ≠ ref) :
    batchOf s i ref = none := by
  unfold batchOf
  cases hb : (s.src i).batch with
  | none => rfl
  | some b => simp [h b hb]

/-- What a reference names is the source's batch. -/
theorem batchOf_spec {s : State} {i : SourceId} {ref : Nat} {b : Batch} (h : batchOf s i ref = some b) :
    (s.src i).batch = some b ∧ b.ref = ref := by
  unfold batchOf at h
  split at h
  · split at h <;> cases h
    exact ⟨by assumption, by assumption⟩
  · cases h

theorem copyOf_named {s : State} {i : SourceId} {p : Port} {b : Batch} (h : (s.src i).batch = some b) :
    copyOf s i p b.ref = b.copy p := by
  simp [copyOf, batchOf_named h]

theorem changeBatch_named {s : State} {i : SourceId} {b : Batch} {f : Batch → Batch} (h : (s.src i).batch = some b) :
    changeBatch i b.ref f s = s.setSrc i { s.src i with batch := some (f b) } := by
  simp [changeBatch, batchOf_named h, setBatch]

/-! ### Words -/

@[simp] theorem setWords_src_same (i : SourceId) (ws : List PoolWord) (s : State) :
    (setWords i ws s).src i = { s.src i with words := ws } := State.setSrc_src_same _ _ _

theorem setWords_src_ne (i j : SourceId) (ws : List PoolWord) (s : State) (h : j ≠ i) :
    (setWords i ws s).src j = s.src j := State.setSrc_src_ne _ _ _ _ h

/-- A line source's list is empty, and stays so. -/
theorem setWords_nil {i : SourceId} {s : State} (h : (s.src i).words = []) : setWords i [] s = s := by
  have e : ({ s.src i with words := [] } : Source) = s.src i := by rw [← h]
  simp only [setWords, h, List.length_nil, Nat.add_zero, Nat.sub_zero]
  rw [e, State.setSrc_self]

theorem endBatch_noWord {i : SourceId} {o : LastOutcome} {s : State} (h : (s.src i).words = []) :
    endBatch i o s = s.setSrc i { s.src i with batch := none, lastOutcome := o } := by
  rw [endBatch, h, List.tail_nil, setWords_nil h]

theorem endBatch_word {i : SourceId} {o : LastOutcome} {w : PoolWord} {ws : List PoolWord} {s : State}
    (h : (s.src i).words = w :: ws) :
    endBatch i o s =
      { s.setSrc i { s.src i with batch := none, lastOutcome := o, words := ws } with poolFree := s.poolFree + 1 } := by
  have e : s.poolFree + (ws.length + 1) - ws.length = s.poolFree + 1 := by omega
  simp only [endBatch, setWords, h, List.tail_cons, List.length_cons]
  rw [e]
  simp [State.setSrc, State.src]

/-! ### The frame of an operation on one source -/

/-- What an operation on source `i` can do to the part: it changes record `i`, frees or takes cells and sends messages; of
record `i` the routing, the owner, the lock and the enable field stay. -/
def sourceOp (i : SourceId) (s t : State) : Prop :=
  sameBut [.sources, .pool, .messages] s t ∧ (∀ j, j ≠ i → t.src j = s.src j) ∧
  (t.src i).routing = (s.src i).routing ∧ (t.src i).owner = (s.src i).owner ∧ (t.src i).lock = (s.src i).lock ∧
  (t.src i).enable = (s.src i).enable

theorem sourceOp_refl (i : SourceId) (s : State) : sourceOp i s s :=
  ⟨sameBut_refl _ s, fun _ _ => rfl, rfl, rfl, rfl, rfl⟩

theorem sourceOp_trans {i : SourceId} {s t u : State} (h : sourceOp i s t) (h' : sourceOp i t u) : sourceOp i s u :=
  ⟨sameBut_trans h.1 h'.1 (fun _ h => h) fun _ h => h, fun j hj => (h'.2.1 j hj).trans (h.2.1 j hj),
    h'.2.2.1.trans h.2.2.1, h'.2.2.2.1.trans h.2.2.2.1, h'.2.2.2.2.1.trans h.2.2.2.2.1,
    h'.2.2.2.2.2.trans h.2.2.2.2.2⟩

theorem sourceOp_send (i : SourceId) (s : State) (ms : List Instr) : sourceOp i s (s.send ms) :=
  ⟨by simp [sameBut_iff], fun _ _ => rfl, rfl, rfl, rfl, rfl⟩

theorem sourceOp_set {i : SourceId} {s : State} {r : Source} (h₁ : r.routing = (s.src i).routing)
    (h₂ : r.owner = (s.src i).owner) (h₃ : r.lock = (s.src i).lock) (h₄ : r.enable = (s.src i).enable) :
    sourceOp i s (s.setSrc i r) :=
  ⟨by simp [sameBut_iff], fun j hj => State.setSrc_src_ne _ _ _ _ hj, by simp [h₁], by simp [h₂], by simp [h₃],
    by simp [h₄]⟩

theorem setWords_op (i : SourceId) (ws : List PoolWord) (s : State) : sourceOp i s (setWords i ws s) :=
  ⟨by simp [sameBut_iff, setWords], fun j hj => setWords_src_ne _ _ _ _ hj, by simp, by simp, by simp, by simp⟩

theorem placeBatch_op (i : SourceId) (form : Form) (kind : EntryKind) (ports : PortSet) (s : State) :
    sourceOp i s (placeBatch i form kind ports s) :=
  sourceOp_trans (sourceOp_set (by rfl) (by rfl) (by rfl) (by rfl)) (sourceOp_send _ _ _)

theorem attemptFallback_op (i : SourceId) (s : State) : sourceOp i s (attemptFallback i s) := by
  unfold attemptFallback
  split
  · exact placeBatch_op ..
  · exact sourceOp_refl i s

theorem requestSlot_op (i : SourceId) (kind : RequestKind) (stamp : Time) (s : State) :
    sourceOp i s (requestSlot i kind stamp s) :=
  sourceOp_trans (sourceOp_set (by rfl) (by rfl) (by rfl) (by rfl)) (sourceOp_send _ _ _)

theorem attempt_op (i : SourceId) (s : State) : sourceOp i s (attempt i s) := by
  simp only [attempt]
  split
  · split
    · simp only [attemptDirect]
      split
      · split
        · exact placeBatch_op ..
        · exact attemptFallback_op ..
      · exact attemptFallback_op ..
    · simp only [attemptBroadcast]
      split
      · exact sourceOp_refl i s
      · exact placeBatch_op ..
    · simp only [attemptShared]
      split
      · exact attemptFallback_op ..
      · exact requestSlot_op ..
  · exact sourceOp_refl i s

/-- An attempt needs WAITING, RUNNING, no standing request and a pending occurrence (R10). -/
theorem attempt_ready {i : SourceId} {s : State} (h₁ : (s.src i).state = .waiting) (h₂ : s.runState = .running)
    (h₃ : (s.src i).slotRequest = none) (h₄ : pendingCount (s.src i) ≠ 0) :
    attempt i s = match (s.src i).routing.mode with
      | .direct => attemptDirect i s
      | .broadcast => attemptBroadcast i s
      | .shared => attemptShared i s := if_pos ⟨h₁, h₂, h₃, h₄⟩

theorem attempt_stopped {i : SourceId} {s : State} (h : s.runState = .stopped) : attempt i s = s := by
  simp [attempt, h]

theorem attempt_notWaiting {i : SourceId} {s : State} (h : (s.src i).state ≠ .waiting) : attempt i s = s := by
  simp [attempt, h]

theorem waitAndAttempt_op (i : SourceId) (s : State) : sourceOp i s (waitAndAttempt i s) :=
  sourceOp_trans (sourceOp_set (by rfl) (by rfl) (by rfl) (by rfl)) (attempt_op _ _)

theorem waitAndAttempt_stopped {i : SourceId} {s : State} (h : s.runState = .stopped) :
    waitAndAttempt i s = s.setSrc i { s.src i with state := .waiting } := attempt_stopped h

theorem occurrence_op (i : SourceId) (s : State) : sourceOp i s (occurrence i s) := by
  have hc : ∀ now r, (counted now r).routing = r.routing ∧ (counted now r).owner = r.owner ∧
      (counted now r).lock = r.lock ∧ (counted now r).enable = r.enable := by
    intro now r
    unfold counted
    split <;> simp
  have hset : sourceOp i s (s.setSrc i (counted s.time (s.src i))) :=
    sourceOp_set (hc _ _).1 (hc _ _).2.1 (hc _ _).2.2.1 (hc _ _).2.2.2
  unfold occurrence
  simp only []
  split
  · exact sourceOp_refl i s
  · exact sourceOp_refl i s
  · exact sourceOp_trans hset (waitAndAttempt_op _ _)
  · exact sourceOp_trans hset (waitAndAttempt_op _ _)
  · exact hset

theorem setBatch_op (i : SourceId) (b : Batch) (s : State) : sourceOp i s (setBatch i b s) :=
  sourceOp_set (by rfl) (by rfl) (by rfl) (by rfl)

theorem changeBatch_op (i : SourceId) (ref : Nat) (f : Batch → Batch) (s : State) :
    sourceOp i s (changeBatch i ref f s) := by
  unfold changeBatch
  split
  · exact setBatch_op ..
  · exact sourceOp_refl i s

theorem endBatch_op (i : SourceId) (o : LastOutcome) (s : State) : sourceOp i s (endBatch i o s) :=
  sourceOp_trans (setWords_op i _ s) (sourceOp_set (by rfl) (by rfl) (by rfl) (by rfl))

theorem afterBatch_op (i : SourceId) (s : State) : sourceOp i s (afterBatch i s) := by
  unfold afterBatch
  split
  · exact sourceOp_set (by rfl) (by rfl) (by rfl) (by rfl)
  · exact waitAndAttempt_op ..

theorem afterBatch_nothing {i : SourceId} {s : State} (h : pendingCount (s.src i) = 0) :
    afterBatch i s = s.setSrc i { s.src i with state := .idle } := if_pos h

theorem afterBatch_pending {i : SourceId} {s : State} (h : pendingCount (s.src i) ≠ 0) :
    afterBatch i s = waitAndAttempt i s := if_neg h

theorem tellLine_op (i : SourceId) (m : LineId → Instr) (s : State) : sourceOp i s (tellLine i m s) := by
  unfold tellLine
  split
  · exact sourceOp_send ..
  · exact sourceOp_refl i s

theorem complete_op (i : SourceId) (s : State) : sourceOp i s (complete i s) :=
  sourceOp_trans (endBatch_op i .delivered s) (sourceOp_trans (tellLine_op _ _ _) (afterBatch_op _ _))

theorem endDraining_op (i : SourceId) (b : Batch) (s : State) : sourceOp i s (endDraining i b s) := by
  have hset : ∀ u : State, sourceOp i u (u.setSrc i { u.src i with state := .off }) :=
    fun u => sourceOp_set (by rfl) (by rfl) (by rfl) (by rfl)
  refine sourceOp_trans ?_ (hset _)
  split
  · exact sourceOp_trans (endBatch_op i _ s) (tellLine_op _ _ _)
  · exact endBatch_op ..

theorem checkBatch_active {i : SourceId} {s : State} {b : Batch} (hb : (s.src i).batch = some b)
    (hs : (s.src i).state = .active) : checkBatch i s = if completes (s.src i) b then complete i s else s := by
  unfold checkBatch
  simp only [hb, hs]

theorem checkBatch_draining {i : SourceId} {s : State} {b : Batch} (hb : (s.src i).batch = some b)
    (hs : (s.src i).state = .draining) :
    checkBatch i s = if someCopy b (· == .inService) then s else endDraining i b s := by
  unfold checkBatch
  simp only [hb, hs]

theorem checkBatch_op (i : SourceId) (s : State) : sourceOp i s (checkBatch i s) := by
  unfold checkBatch
  simp only []
  split
  · exact sourceOp_refl i s
  · split
    · split
      · exact complete_op ..
      · exact sourceOp_refl i s
    · split
      · exact sourceOp_refl i s
      · exact endDraining_op ..
    · exact sourceOp_refl i s

theorem returnToPending_op (i : SourceId) (o : LastOutcome) (b : Batch) (s : State) :
    sourceOp i s (returnToPending i o b s) := by
  have hm : (merged (s.src i) b).routing = (s.src i).routing ∧ (merged (s.src i) b).owner = (s.src i).owner ∧
      (merged (s.src i) b).lock = (s.src i).lock ∧ (merged (s.src i) b).enable = (s.src i).enable := by
    unfold merged
    split <;> simp
  exact sourceOp_trans (t := s.setSrc i { merged (s.src i) b with batch := none, lastOutcome := o })
    (sourceOp_set hm.1 hm.2.1 hm.2.2.1 hm.2.2.2) (waitAndAttempt_op _ _)

theorem discardExpired_op (i : SourceId) (s : State) : sourceOp i s (discardExpired i s) :=
  sourceOp_trans (sourceOp_send i s _) (sourceOp_trans (sourceOp_set (by rfl) (by rfl) (by rfl) (by rfl))
    (sourceOp_trans (endBatch_op _ _ _) (afterBatch_op _ _)))

theorem convertToFallback_op (i : SourceId) (b : Batch) (f : Port) (s : State) :
    sourceOp i s (convertToFallback i b f s) := sourceOp_trans (setBatch_op i _ s) (sourceOp_send _ _ _)

theorem noReOffer_op (i : SourceId) (b : Batch) (s : State) : sourceOp i s (noReOffer i b s) := by
  unfold noReOffer
  split
  · exact convertToFallback_op ..
  · exact sourceOp_trans (discardExpired_op i s) (sourceOp_send _ _ _)

/-! ### Reports and grants -/

theorem applyAdmitted_op (i : SourceId) (p : Port) (ref : Nat) (s : State) : sourceOp i s (applyAdmitted i p ref s) := by
  unfold applyAdmitted
  split
  · exact changeBatch_op ..
  · exact sourceOp_refl i s

theorem applyTaken_op (i : SourceId) (p : Port) (ref : Nat) (s : State) : sourceOp i s (applyTaken i p ref s) := by
  unfold applyTaken
  split
  · exact changeBatch_op ..
  · exact sourceOp_send ..
  · exact sourceOp_refl i s

theorem applyDone_op (i : SourceId) (p : Port) (ref : Nat) (s : State) : sourceOp i s (applyDone i p ref s) := by
  unfold applyDone
  split
  · exact sourceOp_trans (changeBatch_op i ref _ s) (checkBatch_op _ _)
  · exact sourceOp_refl i s

theorem applyWithdrawal_op (i : SourceId) (p : Port) (ref : Nat) (s : State) :
    sourceOp i s (applyWithdrawal i p ref s) := by
  unfold applyWithdrawal
  split
  · exact sourceOp_refl i s
  · split
    · split
      · exact returnToPending_op ..
      · exact returnToPending_op ..
      · exact sourceOp_trans (setBatch_op i _ s) (checkBatch_op _ _)
      · exact sourceOp_refl i s
    · exact sourceOp_refl i s

theorem revokeShared_op (i : SourceId) (p : Port) (b : Batch) (s : State) : sourceOp i s (revokeShared i p b s) := by
  unfold revokeShared
  refine sourceOp_trans (t := setBatch i { b.setCopy p .noCopy with excluded := withPort b.excluded p } s)
    (setBatch_op i _ s) ?_
  simp only []
  split
  · exact noReOffer_op ..
  · exact requestSlot_op ..

theorem applyRevoked_op (i : SourceId) (p : Port) (ref : Nat) (s : State) : sourceOp i s (applyRevoked i p ref s) := by
  unfold applyRevoked
  split
  · exact sourceOp_refl i s
  · split
    · split
      · exact sourceOp_trans (setBatch_op i _ s) (checkBatch_op _ _)
      · split
        · exact revokeShared_op ..
        · exact returnToPending_op ..
        · exact returnToPending_op ..
        · exact sourceOp_trans (setBatch_op i _ s) (checkBatch_op _ _)
      · exact sourceOp_refl i s
    · exact sourceOp_refl i s

theorem applyGranted_op (i : SourceId) (ref : Nat) (p : Port) (s : State) : sourceOp i s (applyGranted i ref p s) := by
  unfold applyGranted
  split
  · exact changeBatch_op ..
  · exact sourceOp_send ..
  · exact sourceOp_refl i s

theorem applyLost_op (i : SourceId) (ref : Nat) (p : Port) (s : State) : sourceOp i s (applyLost i ref p s) := by
  unfold applyLost
  split
  · exact changeBatch_op ..
  · exact sourceOp_refl i s

theorem applyExpiry_op (i : SourceId) (ref : Nat) (converted : Bool) (s : State) :
    sourceOp i s (applyExpiry i ref converted s) := by
  unfold applyExpiry
  split
  · exact sourceOp_refl i s
  · next b _ =>
    split
    · refine sourceOp_trans
        (t := setBatch i { mapCopies (fun _ c => if c = .offered then .noCopy else c) b with offer := none } s)
        (setBatch_op i _ s) ?_
      simp only []
      split
      · exact convertToFallback_op ..
      · exact discardExpired_op ..
    · exact sourceOp_refl i s

theorem openAnswer_op (k : SlotId) (i : SourceId) (b : Batch) (candidates : PortSet) (s : State) :
    sourceOp i s (openAnswer k i b candidates s) := sourceOp_trans (setBatch_op i _ s) (sourceOp_send _ _ _)

theorem grantFirst_op (k : SlotId) (i : SourceId) (s : State) : sourceOp i s (grantFirst k i s) := by
  unfold grantFirst
  simp only []
  split
  · split
    · exact sourceOp_trans (sourceOp_send i s _) (attemptFallback_op _ _)
    · exact sourceOp_trans (sourceOp_set (by rfl) (by rfl) (by rfl) (by rfl)) (openAnswer_op _ _ _ _ _)
  · exact sourceOp_send ..

theorem grantReOffer_op (k : SlotId) (i : SourceId) (ref : Nat) (s : State) : sourceOp i s (grantReOffer k i ref s) := by
  unfold grantReOffer
  split
  · exact sourceOp_send ..
  · simp only []
    split
    · exact sourceOp_trans (sourceOp_send i s _) (noReOffer_op _ _ _)
    · exact openAnswer_op ..

theorem applyGrant_op (k : SlotId) (i : SourceId) (kind : RequestKind) (req : Nat) (s : State) :
    sourceOp i s (applyGrant k i kind req s) := by
  unfold applyGrant
  split
  · simp only []
    refine sourceOp_trans (t := s.setSrc i { s.src i with slotRequest := none })
      (sourceOp_set (by rfl) (by rfl) (by rfl) (by rfl)) ?_
    split
    · exact grantFirst_op ..
    · exact grantReOffer_op ..
  · exact sourceOp_send ..

theorem raiseOn_op (i : SourceId) (w : PoolWord) (s : State) : sourceOp i s (raiseOn i w s) := by
  unfold raiseOn
  simp only []
  split
  · exact sourceOp_trans (setWords_op i _ s) (waitAndAttempt_op _ _)
  · exact sourceOp_trans (setWords_op i _ s) (waitAndAttempt_op _ _)
  · exact setWords_op ..

/-! ### Rounds over the table -/

/-- A round of attempts changes records, cells and messages alone, and of no record the routing, the owner, the lock or the
enable field. -/
theorem attemptWhere_frame (test : Source → Bool) (s : State) :
    sameBut [.sources, .pool, .messages] s (attemptWhere test s) ∧
    ∀ j, ((attemptWhere test s).src j).routing = (s.src j).routing ∧
      ((attemptWhere test s).src j).owner = (s.src j).owner ∧ ((attemptWhere test s).src j).lock = (s.src j).lock ∧
      ((attemptWhere test s).src j).enable = (s.src j).enable := by
  unfold attemptWhere
  generalize List.finRange 48 = l
  induction l generalizing s with
  | nil => exact ⟨sameBut_refl _ s, fun _ => ⟨rfl, rfl, rfl, rfl⟩⟩
  | cons a l ih =>
    rw [List.foldl_cons]
    have hop : sourceOp a s (if test (s.src a) then attempt a s else s) := by
      split
      · exact attempt_op ..
      · exact sourceOp_refl a s
    obtain ⟨h₁, h₂⟩ := ih (if test (s.src a) then attempt a s else s)
    refine ⟨sameBut_trans hop.1 h₁ (fun _ h => h) (fun _ h => h), fun j => ?_⟩
    by_cases e : j = a
    · subst e
      exact ⟨(h₂ j).1.trans hop.2.2.1, (h₂ j).2.1.trans hop.2.2.2.1, (h₂ j).2.2.1.trans hop.2.2.2.2.1,
        (h₂ j).2.2.2.trans hop.2.2.2.2.2⟩
    · rw [← hop.2.1 j e]
      exact h₂ j

end Sys2Proof.Machine
end

