-- ==== Sys2Proof/Laws/Attempts.lean ====
section
/-! SUPPORT. What a formation attempt makes of a record and what it sends, said once for every mode. -/

namespace Sys2Proof.Machine

/-- An operation on source `i` that replaces its record and sends messages. -/
def onRecord (i : SourceId) (s t : State) (sent : List Instr) : Prop := t = (s.setSrc i (t.src i)).send sent

theorem onRecord_of {i : SourceId} {s t : State} {r : Source} {sent : List Instr}
    (h : t = (s.setSrc i r).send sent) : onRecord i s t sent ∧ t.src i = r := by
  subst h
  simp [onRecord]

theorem pendingFields_newBatch (r : Source) (form : Form) : fieldsOf (newBatch r form) = pendingFields r := by
  unfold newBatch pendingFields fieldsOf
  cases r.routing.kind <;> cases r.words <;> rfl

/-- The batch that a source's pending occurrences make (R11, R48). -/
theorem newBatch_eq (r : Source) (form : Form) :
    newBatch r form =
      { ref := r.nextRef, count := (pendingFields r).count, overrun := (pendingFields r).overrun,
        stamp := (pendingFields r).stamp, payload := (pendingFields r).payload, form := form,
        priority := r.routing.priority, copies := Vector.replicate 4 .noCopy, excluded := 0#4, offer := none } := by
  unfold newBatch pendingFields
  cases r.routing.kind <;> cases r.words <;> rfl

/-- Nothing changes, and nothing is sent. -/
theorem onRecord_refl (i : SourceId) (s : State) : onRecord i s s [] := by simp [onRecord]

/-- The batch forms, and its placements go out (R11 to R13). -/
theorem placeBatch_spec (i : SourceId) (form : Form) (kind : EntryKind) (ports : PortSet) (s : State) :
    onRecord i s (placeBatch i form kind ports s)
      ((portsOf ports).map fun q => .placement q (formedPlacement i (s.src i) kind)) ∧
    formedFrom (s.src i) form ports ((placeBatch i form kind ports s).src i) := by
  have hm : ∀ f, mapCopies f (newBatch (s.src i) form) =
      { ref := (s.src i).nextRef, count := (pendingFields (s.src i)).count,
        overrun := (pendingFields (s.src i)).overrun, stamp := (pendingFields (s.src i)).stamp,
        payload := (pendingFields (s.src i)).payload, form := form, priority := (s.src i).routing.priority,
        copies := (mapCopies f (newBatch (s.src i) form)).copies, excluded := 0#4, offer := none } := by
    intro f
    rw [newBatch_eq]
    rfl
  constructor
  · have hf : ∀ f, fieldsOf (mapCopies f (newBatch (s.src i) form)) = pendingFields (s.src i) := by
      intro f
      rw [hm]
      rfl
    have hp : ∀ f, (mapCopies f (newBatch (s.src i) form)).ref = (s.src i).nextRef ∧
        (mapCopies f (newBatch (s.src i) form)).priority = (s.src i).routing.priority := by
      intro f
      rw [hm]
      exact ⟨rfl, rfl⟩
    refine (onRecord_of (r := formed (s.src i)
      (mapCopies (fun p c => if portIn p ports then .owed else c) (newBatch (s.src i) form))) ?_).1
    simp only [placeBatch, placements, formedPlacement, hf, hp]
  · refine ⟨mapCopies (fun p c => if portIn p ports then .owed else c) (newBatch (s.src i) form), ?_, hm _, ?_⟩
    · simp [placeBatch, formed]
    · intro q
      simp

/-- The last resort of an attempt (R12, R14). -/
theorem attemptFallback_spec (i : SourceId) (s : State) :
    ∃ sent, onRecord i s (attemptFallback i s) sent ∧
      lastResort (seen s) i (s.src i) ((attemptFallback i s).src i) sent := by
  unfold attemptFallback
  cases hf : seenFallback s (s.src i).routing with
  | some f =>
    obtain ⟨h₁, h₂⟩ := seenFallback_some.1 hf
    obtain ⟨ho, hr⟩ := placeBatch_spec i .fallback .fallback (onePort f) s
    rw [portsOf_onePort] at ho
    refine ⟨_, ho, fun g hg _ => ?_, fun hn => absurd h₂ (hn f h₁)⟩
    rw [h₁] at hg
    cases hg
    exact ⟨hr, rfl⟩
  | none => exact ⟨[], onRecord_refl i s, fun f h₁ h₂ => absurd h₂ (seenFallback_none.1 hf f h₁), fun _ => ⟨rfl, rfl⟩⟩

theorem firstPending_stamp (r : Source) (h : pendingCount r ≠ 0)
    (hb : ∀ depth raisers, r.routing.kind = .soft depth raisers → r.batch = none) :
    (firstPending r).getD 0#32 = (pendingFields r).stamp := by
  unfold firstPending pendingFields
  cases hk : r.routing.kind with
  | line => rfl
  | soft =>
    have hb := hb _ _ hk
    simp only [pendingWords, hb]
    cases hw : r.words with
    | nil => simp [pendingCount, hk, pendingWords, hb, hw] at h
    | cons => rfl

/-- What an attempt makes of its source's record and what it sends, once R10's conditions hold (R12 to R14). -/
theorem attempt_spec {i : SourceId} {s : State} (h₁ : (s.src i).state = .waiting) (h₂ : s.runState = .running)
    (h₃ : (s.src i).slotRequest = none) (h₄ : pendingCount (s.src i) ≠ 0)
    (h₅ : ∀ depth raisers, (s.src i).routing.kind = .soft depth raisers → (s.src i).batch = none) :
    ∃ sent, onRecord i s (attempt i s) sent ∧ attemptResult (seen s) i (s.src i) ((attempt i s).src i) sent := by
  rw [attempt_ready h₁ h₂ h₃ h₄]
  unfold attemptResult
  cases hm : (s.src i).routing.mode with
  | direct =>
    simp only [attemptDirect]
    cases hl : lowestPort (s.src i).routing.targets with
    | none =>
      obtain ⟨sent, ho, hr⟩ := attemptFallback_spec i s
      refine ⟨sent, ho, fun q hq => ?_⟩
      rw [hq] at hl
      simp [lowestPort, portsOf_onePort] at hl
    | some t =>
      have ht : ∀ q, (s.src i).routing.targets = onePort q → t = q := by
        intro q hq
        rw [hq, lowestPort, portsOf_onePort] at hl
        simpa using hl.symm
      simp only []
      split
      · next hs =>
        obtain ⟨ho, hr⟩ := placeBatch_spec i .direct .direct (onePort t) s
        rw [portsOf_onePort] at ho
        refine ⟨_, ho, fun q hq => ?_⟩
        cases ht q hq
        exact ⟨fun _ => ⟨hr, rfl⟩, fun hn => absurd ((tableSees_iff s t).1 hs) hn⟩
      · next hs =>
        obtain ⟨sent, ho, hr⟩ := attemptFallback_spec i s
        refine ⟨sent, ho, fun q hq => ?_⟩
        cases ht q hq
        exact ⟨fun hn => absurd ((tableSees_iff s t).2 hn) hs, fun _ => hr⟩
  | broadcast =>
    have hports : ∀ q, portIn q (seenOf s (s.src i).routing.targets) = true ↔
        portIn q (s.src i).routing.targets = true ∧ seen s q := by
      intro q
      rw [portIn_seenOf, Bool.and_eq_true, tableSees_iff]
    simp only [attemptBroadcast]
    split
    · next he => exact ⟨[], onRecord_refl i s, _, hports, fun hn => absurd he hn, fun _ => ⟨rfl, rfl⟩⟩
    · next he =>
      obtain ⟨ho, hr⟩ := placeBatch_spec i .broadcast .broadcast (seenOf s (s.src i).routing.targets) s
      exact ⟨_, ho, _, hports, fun _ => ⟨hr, rfl⟩, fun hn => absurd hn he⟩
  | shared =>
    simp only [attemptShared]
    split
    · next he =>
      obtain ⟨sent, ho, hr⟩ := attemptFallback_spec i s
      refine ⟨sent, ho, ?_, fun _ => hr⟩
      rintro ⟨q, hq, hs⟩
      have := (portSet_empty_iff _).1 he q
      rw [portIn_seenOf, hq, (tableSees_iff s q).2 hs] at this
      cases this
    · next he =>
      obtain ⟨ho, hr⟩ := onRecord_of (i := i) (s := s) (t := requestSlot i .first ((firstPending (s.src i)).getD 0#32) s) (by rfl)
      refine ⟨_, ho, fun _ => ⟨hr, ?_⟩, fun hn => absurd ((portSet_empty_iff _).2 fun q => ?_) he⟩
      · rw [firstPending_stamp _ h₄ h₅]
      · rw [portIn_seenOf, Bool.and_eq_false_iff]
        by_cases hq : portIn q (s.src i).routing.targets = true
        · exact .inr (Bool.eq_false_iff.2 fun h => hn q hq ((tableSees_iff s q).1 h))
        · exact .inl (by simpa using hq)

/-- What an attempt reads of the ports is not changed by the records or by messages that report no ATTACH. -/
theorem seen_congr {s t : State} (hp : t.ports = s.ports)
    (hm : ∀ q, .attachReport q ∈ t.inFlight ↔ .attachReport q ∈ s.inFlight) : seen t = seen s := by
  funext q
  simp only [seen, State.port, hp, hm]

end Sys2Proof.Machine
end

