-- ==== Sys2Proof/Laws/Blocks.lean ====
section
/-! SUPPORT. What the operations of the Offer Arbiter, the Delivery Units and the Line Qualifier can do, said once for
each. -/

namespace Sys2Proof.Machine

/-! ### The Offer Arbiter -/

/-- What an operation of the Offer Arbiter can do to the part: it changes the Offer List and the request list and sends
messages. -/
abbrev offerOp (s t : State) : Prop := sameBut [.offers, .requests, .messages] s t

theorem offerOp_trans {s t u : State} (h : offerOp s t) (h' : offerOp t u) : offerOp s u :=
  sameBut_trans h h' (fun _ h => h) fun _ h => h

theorem offerOp_send (s : State) (ms : List Instr) : offerOp s (s.send ms) := by simp [sameBut_iff]

theorem offerOp_set (s : State) (k : SlotId) (x : OfferSlot) : offerOp s (s.setOffer k x) := by simp [sameBut_iff]

theorem grantSlot_op (k : SlotId) (r : Request) (s : State) : offerOp s (grantSlot k r s) := by
  simp [sameBut_iff, grantSlot]

theorem arbitrate_op (n : Nat) (s : State) : offerOp s (arbitrate n s) := by
  induction n generalizing s with
  | zero => exact sameBut_refl _ s
  | succ n ih =>
    simp only [arbitrate]
    split
    · exact offerOp_trans (t := { s with requests := _ }) (by simp [sameBut_iff])
        (offerOp_trans (grantSlot_op _ _ _) (ih _))
    · exact sameBut_refl _ s

theorem runArbiter_op (s : State) : offerOp s (runArbiter s) := arbitrate_op _ s

theorem freeSlot_op (k : SlotId) (s : State) : offerOp s (freeSlot k s) :=
  offerOp_trans (offerOp_set s k .free) (runArbiter_op _)

theorem takeRequest_op (r : Request) (s : State) : offerOp s (takeRequest r s) := by
  unfold takeRequest
  split
  · apply grantSlot_op
  · simp [sameBut_iff]

theorem takeCancel_op (i : SourceId) (req : Nat) (s : State) : offerOp s (takeCancel i req s) := by
  simp [sameBut_iff, takeCancel]

theorem openOffer_op (k : SlotId) (o : Offer) (f : DeliveryFields) (s : State) : offerOp s (openOffer k o f s) := by
  unfold openOffer
  split
  · exact offerOp_trans (offerOp_set s k _) (offerOp_send _ _)
  · exact sameBut_refl _ s

theorem takeDecline_op (k : SlotId) (s : State) : offerOp s (takeDecline k s) := by
  unfold takeDecline
  split
  · apply freeSlot_op
  · exact sameBut_refl _ s

theorem takeOfferAdmission_op (i : SourceId) (p : Port) (round : Nat) (s : State) :
    offerOp s (takeOfferAdmission i p round s) := by
  unfold takeOfferAdmission
  split
  · apply offerOp_set
  · exact sameBut_refl _ s

theorem takeClaim_op (p : Port) (i : SourceId) (ref round : Nat) (s : State) : offerOp s (takeClaim p i ref round s) := by
  unfold takeClaim
  split
  · exact offerOp_trans (offerOp_send s _) (freeSlot_op _ _)
  · apply offerOp_send

theorem expireOffer_op (k : SlotId) (o : Offer) (cause : ExpiryCause) (s : State) : offerOp s (expireOffer k o cause s) :=
  offerOp_trans (offerOp_send s _) (freeSlot_op _ _)

theorem takeOfferExpiry_op (k : SlotId) (s : State) : offerOp s (takeOfferExpiry k s) := by
  unfold takeOfferExpiry
  split
  · split
    · apply expireOffer_op
    · exact sameBut_refl _ s
  · exact sameBut_refl _ s

theorem takeCandidateLoss_op (i : SourceId) (ref round : Nat) (p : Port) (s : State) :
    offerOp s (takeCandidateLoss i ref round p s) := by
  unfold takeCandidateLoss
  split
  · simp only []
    split
    · exact offerOp_trans (offerOp_set s _ _) (offerOp_trans (offerOp_send _ _) (expireOffer_op _ _ _ _))
    · exact offerOp_trans (offerOp_set s _ _) (offerOp_send _ _)
  · exact sameBut_refl _ s

theorem takeClose_op (i : SourceId) (ref : Nat) (s : State) : offerOp s (takeClose i ref s) := by
  unfold takeClose
  split
  · exact offerOp_trans (offerOp_send s _) (freeSlot_op _ _)
  · exact sameBut_refl _ s

/-- The arbiter's choice is one of the requests. -/
theorem bestRequest_mem {now : Time} {l : List Request} {r : Request} (h : bestRequest now l = some r) : r ∈ l := by
  induction l generalizing r with
  | nil => simp [bestRequest] at h
  | cons a l ih =>
    simp only [bestRequest] at h
    split at h
    · cases h; simp
    · next b hb =>
      split at h <;> cases h
      · exact List.mem_cons_of_mem _ (ih hb)
      · simp

theorem bestRequest_none {now : Time} {l : List Request} (h : bestRequest now l = none) : l = [] := by
  cases l with
  | nil => rfl
  | cons a l =>
    simp only [bestRequest] at h
    split at h
    · cases h
    · split at h <;> cases h

/-! ### The Delivery Units -/

/-- What an operation of the Delivery Unit of port `p` can do to the part: it changes that unit and sends messages. -/
def unitOp (p : Port) (s t : State) : Prop := sameBut [.units, .messages] s t ∧ otherUnits p s t

theorem unitOp_refl (p : Port) (s : State) : unitOp p s s := ⟨sameBut_refl _ s, fun _ _ => rfl⟩

theorem unitOp_trans {p : Port} {s t u : State} (h : unitOp p s t) (h' : unitOp p t u) : unitOp p s u :=
  ⟨sameBut_trans h.1 h'.1 (fun _ h => h) fun _ h => h, fun q hq => (h'.2 q hq).trans (h.2 q hq)⟩

theorem unitOp_send (p : Port) (s : State) (ms : List Instr) : unitOp p s (s.send ms) :=
  ⟨by simp [sameBut_iff], fun _ _ => rfl⟩

theorem unitOp_set (p : Port) (s : State) (d : DeliveryUnit) : unitOp p s (s.setUnit p d) :=
  ⟨by simp [sameBut_iff], fun _ hq => State.setUnit_unit_ne _ _ _ _ hq⟩

theorem runAdmission_op (p : Port) (s : State) : unitOp p s (runAdmission p s) :=
  unitOp_trans (unitOp_set p s _) (unitOp_send _ _ _)

theorem owePlacement_op (p : Port) (e : Placement) (s : State) : unitOp p s (owePlacement p e s) :=
  unitOp_trans (unitOp_set p s _) (runAdmission_op _ _)

theorem admitAtOnce_op (p : Port) (e : Placement) (s : State) : unitOp p s (admitAtOnce p e s) :=
  unitOp_trans (unitOp_set p s _) (unitOp_trans (unitOp_send _ _ _) (runAdmission_op _ _))

theorem takePlacement_op (p : Port) (e : Placement) (s : State) : unitOp p s (takePlacement p e s) := by
  unfold takePlacement
  split
  · refine unitOp_trans (t := s.setUnit p (withoutStale e.id.source (s.unit p))) (unitOp_set p s _) ?_
    simp only []
    split
    · split
      · apply admitAtOnce_op
      · exact unitOp_trans (runAdmission_op _ _) (owePlacement_op _ _ _)
    · apply owePlacement_op
  · exact unitOp_send ..

theorem takeWithdrawal_op (p : Port) (id : EntryId) (s : State) : unitOp p s (takeWithdrawal p id s) := by
  unfold takeWithdrawal
  simp only []
  split
  · exact unitOp_trans (unitOp_set p s _) (runAdmission_op _ _)
  · exact unitOp_set ..

theorem takeNotice_op (p : Port) (kind : NoticeKind) (subject : Subject) (s : State) :
    unitOp p s (takeNotice p kind subject s) := by
  unfold takeNotice
  split
  · exact unitOp_set ..
  · exact unitOp_refl p s

theorem takeRemoval_op (p : Port) (i : SourceId) (ref : Nat) (s : State) : unitOp p s (takeRemoval p i ref s) := by
  unfold takeRemoval
  simp only []
  split <;> exact unitOp_set ..

theorem expireService_op (p : Port) (k : ServiceSlotId) (s : State) : unitOp p s (expireService p k s) := by
  unfold expireService
  simp only []
  split
  · split
    · split
      · exact unitOp_trans (unitOp_set p s _) (unitOp_trans (takeNotice_op _ _ _ _) (unitOp_send _ _ _))
      · exact unitOp_refl p s
    · exact unitOp_refl p s
  · exact unitOp_refl p s

theorem handback_op (p : Port) (s : State) : unitOp p s (handback p s) :=
  unitOp_trans (unitOp_set p s _) (unitOp_send _ _ _)

/-- A port that leaves its session changes its own state, and, with work to hand back, its unit and the messages. -/
theorem leaveSession_frame (p : Port) (next : PortState) (s : State) :
    sameBut [.ports, .units, .messages] s (leaveSession p next s) ∧
    (leaveSession p next s).port p = { s.port p with pstate := next } ∧ otherPorts p s (leaveSession p next s) ∧
    otherUnits p s (leaveSession p next s) := by
  simp only [leaveSession]
  split
  · obtain ⟨h₁, h₂⟩ := handback_op p (s.setPort p { s.port p with pstate := next })
    refine ⟨sameBut_trans (l₁ := [.ports]) (by simp [sameBut_iff]) h₁ (by simp) (by simp), ?_, fun q hq => ?_, h₂⟩
    · simp [handback]
    · simp [handback, State.setPort_port_ne, hq]
  · exact ⟨by simp [sameBut_iff], by simp, fun q hq => State.setPort_port_ne _ _ _ _ hq, fun _ _ => rfl⟩

/-! ### Admission -/

/-- The arbiter's choice is one of the owed placements. -/
theorem bestOwed_mem {now : Time} {l : List Owed} {o : Owed} (h : bestOwed now l = some o) : o ∈ l := by
  induction l generalizing o with
  | nil => simp [bestOwed] at h
  | cons a l ih =>
    simp only [bestOwed] at h
    split at h
    · cases h; simp
    · next b hb =>
      split at h <;> cases h
      · exact List.mem_cons_of_mem _ (ih hb)
      · simp

theorem bestOwed_none {now : Time} {l : List Owed} (h : bestOwed now l = none) : l = [] := by
  cases l with
  | nil => rfl
  | cons a l =>
    simp only [bestOwed] at h
    split at h
    · cases h
    · split at h <;> cases h

theorem admissions_full {now : Time} {p : Port} {n : Nat} {d : DeliveryUnit} (h : 16 ≤ d.entries.length) :
    admissions now p n d = (d, []) := by
  cases n with
  | zero => rfl
  | succ n => simp [admissions, Config.queueCapacity, Nat.not_lt.2 h]

theorem admissions_nothing {now : Time} {p : Port} {n : Nat} {d : DeliveryUnit} (h : d.owed = []) :
    admissions now p n d = (d, []) := by
  cases n with
  | zero => rfl
  | succ n => simp [admissions, h, bestOwed]

/-- Admission moves placements from the owed list to the entries and changes nothing else of the unit. -/
theorem admissions_frame (now : Time) (p : Port) (n : Nat) (d : DeliveryUnit) :
    (admissions now p n d).1 =
      { d with entries := (admissions now p n d).1.entries, owed := (admissions now p n d).1.owed } := by
  induction n generalizing d with
  | zero => rfl
  | succ n ih =>
    simp only [admissions]
    split
    · split
      · rfl
      · next o _ => exact ih { d with entries := d.entries ++ [o.entry], owed := d.owed.erase o }
    · rfl

/-! ### Sequence numbers -/

theorem seqInUse_congr {d d' : DeliveryUnit} (hs : d'.slots = d.slots) (hr : d'.revoked = d.revoked) (n : Byte) :
    seqInUse d' n = seqInUse d n := by
  simp [seqInUse, heldSeqs, DeliveryUnit.slot, hs, hr]

theorem stepSeq_congr {d d' : DeliveryUnit} (hs : d'.slots = d.slots) (hr : d'.revoked = d.revoked) (fuel : Nat)
    (n : Byte) : stepSeq d' fuel n = stepSeq d fuel n := by
  induction fuel generalizing n with
  | zero => rfl
  | succ fuel ih => simp [stepSeq, seqInUse_congr hs hr, ih]

/-- The number assigned reads the counter, the slots and the revoked list. -/
theorem assignedSeq_congr {d d' : DeliveryUnit} (hs : d'.slots = d.slots) (hr : d'.revoked = d.revoked)
    (hc : d'.seq = d.seq) : assignedSeq d' = assignedSeq d := by
  unfold assignedSeq
  rw [hc]
  exact stepSeq_congr hs hr _ _

theorem assignedSeq_claims (d : DeliveryUnit) (claims : List Claim) :
    assignedSeq { d with claims := claims } = assignedSeq d := assignedSeq_congr (by rfl) (by rfl) (by rfl)

theorem assignedSeq_entries (d : DeliveryUnit) (entries : List Placement) :
    assignedSeq { d with entries := entries } = assignedSeq d := assignedSeq_congr (by rfl) (by rfl) (by rfl)

theorem heldSeqs_length (d : DeliveryUnit) : (heldSeqs d).length ≤ 4 :=
  (List.length_filterMap_le _ _).trans (by decide)

/-- The counter's value after a number of steps: the numbers 1 to 255 in a cycle. -/
theorem nextSeq_iterate (n : Byte) (m : Nat) (h : m < 255) : (nextSeq^[m + 1] n).toNat = (n.toNat + m) % 255 + 1 := by
  have step : ∀ x : Byte, (nextSeq x).toNat = x.toNat % 255 + 1 := by decide
  induction m with
  | zero => simpa using step n
  | succ m ih =>
    rw [Function.iterate_succ_apply', step, ih (by omega)]
    omega

/-! ### The Line Qualifier -/

theorem settledEdge_eq {s : State} {l : LineId} {trigger : Trigger} {settle : Fin 16}
    (h : (s.src (sourceOfLine l)).routing.kind = .line trigger settle) :
    settledEdge l s =
      s.send (if (s.line l).image && edgeMatches trigger (s.line l).settled then [.occurrenceReport l] else []) := by
  simp only [settledEdge, lineTrigger, h]
  split <;> simp

theorem reportIfAsserted_eq (l : LineId) (s : State) :
    reportIfAsserted l s = s.send (if lineAsserted s l then [.occurrenceReport l] else []) := by
  unfold reportIfAsserted
  split <;> simp

/-- A line's assertion reads its trigger and its settled level. -/
theorem lineAsserted_congr {s t : State} {l : LineId} (hs : t.sources = s.sources)
    (hl : (t.line l).settled = (s.line l).settled) : lineAsserted t l = lineAsserted s l := by
  simp [lineAsserted, lineTrigger, State.src, hs, hl]

/-- What a change of a raw level can do: the line, the messages; and the pin through `setPin`. -/
theorem changeRaw_frame (l : LineId) (high : Bool) (s : State) : sameBut [.lines, .messages] s (changeRaw l high s) := by
  have hedge : ∀ (u : State), sameBut [.lines, .messages] u (settledEdge l u) := by
    intro u
    unfold settledEdge
    split
    · split
      · simp [sameBut_iff]
      · exact sameBut_refl _ u
    · exact sameBut_refl _ u
  have hset : ∀ (u : State) x, sameBut [.lines, .messages] u (u.setLine l x) := fun u x => by simp [sameBut_iff]
  have htrans : ∀ {a b c : State}, sameBut [.lines, .messages] a b → sameBut [.lines, .messages] b c →
      sameBut [.lines, .messages] a c := fun h h' => sameBut_trans h h' (fun _ h => h) fun _ h => h
  unfold changeRaw
  simp only []
  split
  · exact sameBut_refl _ s
  · split
    · exact htrans (hset _ _) (hset _ _)
    · split
      · exact htrans (hset s _) (htrans (hset _ _) (hedge _))
      · exact htrans (hset _ _) (hset _ _)
    · apply hset

theorem expireSettle_frame (l : LineId) (s : State) : sameBut [.lines, .messages] s (expireSettle l s) := by
  unfold expireSettle
  split
  · split
    · refine sameBut_trans (l₁ := [.lines, .messages]) (l₂ := [.lines, .messages])
        (t := s.setLine l { s.line l with settled := (s.line l).raw, timer := none }) (by simp [sameBut_iff]) ?_
        (fun _ h => h) fun _ h => h
      simp only [acceptLevel, settledEdge]
      split
      · split
        · simp [sameBut_iff]
        · exact sameBut_refl _ _
      · exact sameBut_refl _ _
    · exact sameBut_refl _ s
  · exact sameBut_refl _ s

end Sys2Proof.Machine
end

