-- ==== Sys2Proof/Laws/Commands.lean ====
section
/-! SUPPORT. How the outcome of a message and of a command frame follows from what its act or its body does. -/

namespace Sys2Proof.Machine

/-! ### Messages and events -/

/-- An event whose act sends messages and changes nothing. -/
theorem event_sends {act : State → State} {m : Instr} {sent : List Instr} {s : State} (hc : s.crst = false)
    (h : act (s.arrive m) = (s.arrive m).send sent) : ∃ t, eventStep m act s = .next t ∧ eventDone m sent [] s t := by
  refine ⟨_, eventStep_running _ _ _ hc, ?_⟩
  rw [h]
  exact ⟨by simp, judgeAttn_attnLaw _, by simp [sameBut_iff]⟩

/-- An event whose act changes one source record and sends messages. -/
theorem event_onSource {act : State → State} {m : Instr} {sent : List Instr} {s : State} {i : SourceId} {r : Source}
    (hc : s.crst = false) (h : act (s.arrive m) = ((s.arrive m).setSrc i r).send sent) :
    ∃ t, eventStep m act s = .next t ∧ t.src i = r ∧ otherSources i s t ∧ eventDone m sent [.sources] s t := by
  refine ⟨_, eventStep_running _ _ _ hc, ?_⟩
  rw [h]
  exact ⟨by simp, fun j hj => by simp [State.setSrc_src_ne, hj], by simp, judgeAttn_attnLaw _, by simp [sameBut_iff]⟩

/-- An event whose act changes one Delivery Unit and sends messages. -/
theorem event_onUnit {act : State → State} {m : Instr} {sent : List Instr} {s : State} {p : Port} {d : DeliveryUnit}
    (hc : s.crst = false) (h : act (s.arrive m) = ((s.arrive m).setUnit p d).send sent) :
    ∃ t, eventStep m act s = .next t ∧ t.unit p = d ∧ otherUnits p s t ∧ eventDone m sent [.units] s t := by
  refine ⟨_, eventStep_running _ _ _ hc, ?_⟩
  rw [h]
  exact ⟨by simp, fun j hj => by simp [State.setUnit_unit_ne, hj], by simp, judgeAttn_attnLaw _, by simp [sameBut_iff]⟩

/-- An event whose act changes one slot of the Offer List and sends messages. -/
theorem event_onOffer {act : State → State} {m : Instr} {sent : List Instr} {s : State} {k : SlotId} {x : OfferSlot}
    (hc : s.crst = false) (h : act (s.arrive m) = ((s.arrive m).setOffer k x).send sent) :
    ∃ t, eventStep m act s = .next t ∧ t.offer k = x ∧ otherOffers k s t ∧ eventDone m sent [.offers] s t := by
  refine ⟨_, eventStep_running _ _ _ hc, ?_⟩
  rw [h]
  exact ⟨by simp, fun j hj => by simp [State.setOffer_offer_ne, hj], by simp, judgeAttn_attnLaw _,
    by simp [sameBut_iff]⟩

/-- An event whose act keeps a part keeps it, but for the messages and ATTN. -/
theorem event_frame {act : State → State} {m : Instr} {s t : State} {changed : List Part}
    (ha : ∀ u, sameBut changed u (act u)) (h : eventStep m act s = .next t) :
    sameBut (.messages :: .attn :: changed) s t := by
  rcases eventStep_cases h with ⟨-, rfl⟩ | ⟨-, rfl⟩
  · exact sameBut_refl _ _
  · refine sameBut_trans (l₁ := [.messages]) (t := s.arrive m) (by simp [sameBut_iff]) ?_ (by simp) (fun _ h => h)
    refine sameBut_trans (ha _) (l₂ := [.attn]) (by simp [sameBut_iff]) (fun x hx => by simp [hx]) (by simp)

/-! ### A frame that has begun -/

@[simp] theorem beginFrame_unit (c : Instr) (p q : Port) (s : State) : (beginFrame c p s).unit q = s.unit q := rfl
@[simp] theorem beginFrame_src (c : Instr) (p : Port) (s : State) (i : SourceId) :
    (beginFrame c p s).src i = s.src i := rfl
@[simp] theorem beginFrame_offer (c : Instr) (p : Port) (s : State) (k : SlotId) :
    (beginFrame c p s).offer k = s.offer k := rfl
@[simp] theorem beginFrame_line (c : Instr) (p : Port) (s : State) (l : LineId) :
    (beginFrame c p s).line l = s.line l := rfl
@[simp] theorem beginFrame_time (c : Instr) (p : Port) (s : State) : (beginFrame c p s).time = s.time := rfl
@[simp] theorem beginFrame_steering (c : Instr) (p : Port) (s : State) : (beginFrame c p s).steering = s.steering := rfl
@[simp] theorem beginFrame_runState (c : Instr) (p : Port) (s : State) : (beginFrame c p s).runState = s.runState := rfl
@[simp] theorem beginFrame_window (c : Instr) (p : Port) (s : State) : (beginFrame c p s).window = s.window := rfl
@[simp] theorem beginFrame_cause (c : Instr) (p : Port) (s : State) : (beginFrame c p s).cause = s.cause := rfl
@[simp] theorem beginFrame_poolFree (c : Instr) (p : Port) (s : State) : (beginFrame c p s).poolFree = s.poolFree := rfl
@[simp] theorem beginFrame_inFlight (c : Instr) (p : Port) (s : State) : (beginFrame c p s).inFlight = s.inFlight := rfl

@[simp] theorem beginFrame_pstate (c : Instr) (p q : Port) (s : State) :
    ((beginFrame c p s).port q).pstate = (s.port q).pstate := by
  by_cases h : q = p
  · subst h; simp [beginFrame]
  · simp [beginFrame, State.setPort_port_ne, h]

@[simp] theorem beginFrame_tag (c : Instr) (p q : Port) (s : State) :
    ((beginFrame c p s).port q).tag = (s.port q).tag := by
  by_cases h : q = p
  · subst h; simp [beginFrame]
  · simp [beginFrame, State.setPort_port_ne, h]

@[simp] theorem beginFrame_store (c : Instr) (p q : Port) (s : State) :
    ((beginFrame c p s).port q).store = (s.port q).store := by
  by_cases h : q = p
  · subst h; simp [beginFrame]
  · simp [beginFrame, State.setPort_port_ne, h]

theorem beginFrame_port_ne (c : Instr) (p q : Port) (s : State) (h : q ≠ p) : (beginFrame c p s).port q = s.port q := by
  simp [beginFrame, State.setPort_port_ne, h]

theorem beginFrame_frame (c : Instr) (p : Port) (s : State) : sameBut [.ports] s (beginFrame c p s) := by
  simp [sameBut_iff, beginFrame]

/-! ### Command frames -/

theorem portCheck_any (ps : PortState) : portCheck .anyState ps = none := by cases ps <;> rfl

theorem portCheck_observation {ps : PortState} (h : ps ≠ .evicted) : portCheck .observation ps = none := by
  cases ps <;> simp_all [portCheck]

theorem portCheck_session {ps : PortState} (h : ps = .attached) : portCheck .session ps = none := by subst h; rfl

/-- Every well-formed command frame is taken at its port, under its row of R125's table. -/
theorem exec_frame {c : Instr} {p : Port} (h : framePort c = some p) (hw : c.wellFormed = true) :
    ∃ a body, accessOf c = some a ∧ ∀ s, exec c s = frameStep c p a body s := by
  cases c <;> (first | (cases h; done) | cases h)
  case badCommand code =>
    have hn : (argCount code).isNone = true := hw
    exact ⟨_, badCommandBody, rfl, fun s => by simp [exec, execBadCommand, hn]⟩
  all_goals exact ⟨_, _, rfl, fun _ => rfl⟩

/-- A command taken at once and answered, whose body may change its own port's record. -/
theorem frameStep_answered {c : Instr} {p : Port} {a : Access} {body : Body} {s u : State} {ans : Answer}
    {q : PortRecord} (h : frameReady p s = true) (hc : portCheck a (s.port p).pstate = none)
    (hb : body (beginFrame c p s) = (u, some ans))
    (hu : u.port p = { q with
      frame := some (awaitedFrame c) })
    (hq : q.held = []) : frameStep c p a body s = .next (judgeAttn (u.setPort p (replied c p ans q))) := by
  rw [frameStep, takeCommand_answered h hc hb hu hq]

/-- A command taken at once and answered, whose body leaves the ports' records alone. -/
theorem frameStep_replied {c : Instr} {p : Port} {a : Access} {body : Body} {s : State} (u : State) {ans : Answer}
    (changed : List Part) (h : frameReady p s = true) (hc : portCheck a (s.port p).pstate = none)
    (hb : body (beginFrame c p s) = (u, some ans)) (hp : u.ports = (beginFrame c p s).ports)
    (hs : sameBut changed (beginFrame c p s) u) :
    frameStep c p a body s = .next (judgeAttn (u.setPort p (replied c p ans (s.port p)))) ∧
      repliedWith c p ans changed s (judgeAttn (u.setPort p (replied c p ans (s.port p)))) := by
  have hport : ∀ q, u.port q = (beginFrame c p s).port q := fun q => by simp [State.port, hp]
  have hr := (frameReady_iff p s).1 h
  refine ⟨frameStep_answered h hc hb (q := s.port p) ?_ hr.2.2.2.2.2.1, by simp, fun q hq => ?_, judgeAttn_attnLaw _, ?_⟩
  · rw [hport]; simp [beginFrame]
  · simp [State.setPort_port_ne, hq, hport, beginFrame_port_ne]
  · refine sameBut_trans (l₁ := [.ports]) (beginFrame_frame c p s) ?_ (by simp) (fun _ h => h)
    exact sameBut_trans hs (l₂ := [.ports, .attn]) (by simp [sameBut_iff]) (fun x hx => by simp [hx]) (by simp)

/-- A command taken at once and answered that changes nothing. -/
theorem frameStep_unchanged {c : Instr} {p : Port} {a : Access} {body : Body} {s : State} {ans : Answer}
    (h : frameReady p s = true) (hc : portCheck a (s.port p).pstate = none)
    (hb : body (beginFrame c p s) = (beginFrame c p s, some ans)) :
    ∃ t, frameStep c p a body s = .next t ∧ repliedWith c p ans [] s t :=
  ⟨_, frameStep_replied _ [] h hc hb rfl (sameBut_refl _ _)⟩

/-! ### What a command frame can do -/

/-- The link's own part in a command: the ports' records change, but no port's state or tag, and the commands that a Port
Interface has released; the queue of commands outside and what the masters have still to do on their links stay. -/
def linkOp (s t : State) : Prop :=
  sameBut [.ports, .waiting] s t ∧ (t.pending = s.pending ∧ t.link = s.link) ∧
  ∀ q, (t.port q).pstate = (s.port q).pstate ∧ (t.port q).tag = (s.port q).tag

theorem linkOp_refl (s : State) : linkOp s s := ⟨sameBut_refl _ s, ⟨rfl, rfl⟩, fun _ => ⟨rfl, rfl⟩⟩

theorem linkOp_trans {s t u : State} (h : linkOp s t) (h' : linkOp t u) : linkOp s u :=
  ⟨sameBut_trans h.1 h'.1 (fun _ h => h) fun _ h => h, ⟨h'.2.1.1.trans h.2.1.1, h'.2.1.2.trans h.2.1.2⟩,
    fun q => ⟨(h'.2.2 q).1.trans (h.2.2 q).1, (h'.2.2 q).2.trans (h.2.2 q).2⟩⟩

theorem linkOp_setPort {p : Port} {s : State} {q : PortRecord} (h₁ : q.pstate = (s.port p).pstate)
    (h₂ : q.tag = (s.port p).tag) : linkOp s (s.setPort p q) := by
  refine ⟨by simp [sameBut_iff], ⟨rfl, rfl⟩, fun r => ?_⟩
  by_cases e : r = p
  · subst e; simp [h₁, h₂]
  · simp [State.setPort_port_ne, e]

theorem beginFrame_op (c : Instr) (p : Port) (s : State) : linkOp s (beginFrame c p s) :=
  linkOp_setPort (by rfl) (by rfl)

theorem answer_op (c : Instr) (p : Port) (a : Answer) (s : State) : linkOp s (answer c p a s) :=
  linkOp_setPort (by rfl) (by rfl)

theorem handNext_op (p : Port) (s : State) : linkOp s (handNext p s) := by
  unfold handNext
  split
  · split
    · exact linkOp_refl s
    · next c rest _ =>
      exact linkOp_trans (t := s.setPort p { s.port p with held := rest }) (linkOp_setPort (by rfl) (by rfl))
        ⟨by simp [sameBut_iff], ⟨rfl, rfl⟩, fun _ => ⟨rfl, rfl⟩⟩
  · exact linkOp_refl s

/-- A command frame does its link's part, then perhaps its body, then the link's part again. -/
theorem takeCommand_cases (c : Instr) (p : Port) (a : Access) (body : Body) (s : State) :
    ∃ u v, linkOp s u ∧ (v = u ∨ portCheck a (u.port p).pstate = none ∧ v = (body u).1) ∧
      linkOp v (takeCommand c p a body s) := by
  have hrun : ∀ u, ∃ v, (v = u ∨ portCheck a (u.port p).pstate = none ∧ v = (body u).1) ∧
      linkOp v (handNext p (runCommand c p a body u)) := by
    intro u
    simp only [runCommand]
    split
    · exact ⟨u, .inl rfl, linkOp_trans (answer_op _ _ _ _) (handNext_op _ _)⟩
    · next hc =>
      split
      · next v ans hb => exact ⟨v, .inr ⟨hc, by rw [hb]⟩, linkOp_trans (answer_op _ _ _ _) (handNext_op _ _)⟩
      · next v hb => exact ⟨v, .inr ⟨hc, by rw [hb]⟩, handNext_op _ _⟩
  simp only [takeCommand]
  split
  · obtain ⟨v, hv, ht⟩ := hrun { s with released := false }
    exact ⟨{ s with released := false }, v, ⟨by simp [sameBut_iff], ⟨rfl, rfl⟩, fun _ => ⟨rfl, rfl⟩⟩, hv, ht⟩
  · split
    · split
      · obtain ⟨v, hv, ht⟩ := hrun (beginFrame c p s)
        exact ⟨_, v, beginFrame_op c p s, hv, ht⟩
      · exact ⟨_, _, beginFrame_op c p s, .inl rfl, linkOp_setPort (by rfl) (by rfl)⟩
    · exact ⟨s, s, linkOp_refl s, .inl rfl, linkOp_refl s⟩

/-! ### The source that a command names -/

theorem unlockedSource_ok {s : State} {b : Byte} {i : SourceId} (hi : sourceOf b = some i)
    (hl : (s.src i).lock = false) : unlockedSource s b = .ok i := by
  simp [unlockedSource, hi, hl]

theorem ownedSource_ok {s : State} {p : Port} {b : Byte} {i : SourceId} (hi : sourceOf b = some i)
    (hl : (s.src i).lock = false) (ho : (s.src i).owner = some p) : ownedSource s p b = .ok i := by
  simp [ownedSource, unlockedSource, hi, hl, ho]

/-- What an accepted source byte names: an unlocked source of the issuing port. -/
theorem ownedSource_spec {s : State} {p : Port} {b : Byte} {i : SourceId} (h : ownedSource s p b = .ok i) :
    sourceOf b = some i ∧ (s.src i).lock = false ∧ (s.src i).owner = some p := by
  unfold ownedSource unlockedSource at h
  split at h
  · cases h
  · next i' h' =>
    split at h <;> cases h
    split at h'
    · cases h'
    · split at h' <;> cases h'
      exact ⟨by assumption, by simp_all, by assumption⟩

theorem steered_ok {c : Instr} {p : Port} {body : Body} {s : State} (h : s.steering = some p) :
    steered c p body s = body s := if_pos h

theorem steered_refused {c : Instr} {p : Port} {body : Body} {s : State} (h : s.steering ≠ some p) :
    steered c p body s = refuse c .notSteering s := if_neg h

end Sys2Proof.Machine
end

