-- ==== Sys2Proof/Laws/Frames.lean ====
section
/-! SUPPORT. The frames of the commands and events that act on more than one block. -/

namespace Sys2Proof.Machine

/-! ### DISABLE and TABLE_RESET -/

theorem disableSource_frame (i : SourceId) (s : State) : sameBut [.sources, .pool, .messages] s (disableSource i s) ∧
    (∀ j, j ≠ i → (disableSource i s).src j = s.src j) ∧ ((disableSource i s).src i).routing = (s.src i).routing ∧
    ((disableSource i s).src i).owner = (s.src i).owner ∧ ((disableSource i s).src i).lock = (s.src i).lock := by
  let keeps := fun a b : State => sameBut [.sources, .pool, .messages] a b ∧ (∀ j, j ≠ i → b.src j = a.src j) ∧
    (b.src i).routing = (a.src i).routing ∧ (b.src i).owner = (a.src i).owner ∧ (b.src i).lock = (a.src i).lock
  have refl : ∀ a, keeps a a := fun a => ⟨sameBut_refl _ a, fun _ _ => rfl, rfl, rfl, rfl⟩
  have trans : ∀ {a b c}, keeps a b → keeps b c → keeps a c := fun h h' =>
    ⟨sameBut_trans h.1 h'.1 (fun _ h => h) fun _ h => h, fun j hj => (h'.2.1 j hj).trans (h.2.1 j hj),
      h'.2.2.1.trans h.2.2.1, h'.2.2.2.1.trans h.2.2.2.1, h'.2.2.2.2.trans h.2.2.2.2⟩
  have ofOp : ∀ {a b}, sourceOp i a b → keeps a b := fun h => ⟨h.1, h.2.1, h.2.2.1, h.2.2.2.1, h.2.2.2.2.1⟩
  have set : ∀ (a : State) (r : Source), r.routing = (a.src i).routing → r.owner = (a.src i).owner →
      r.lock = (a.src i).lock → keeps a (a.setSrc i r) := fun a r h₁ h₂ h₃ =>
    ⟨by simp [sameBut_iff], fun j hj => State.setSrc_src_ne _ _ _ _ hj, by simp [h₁], by simp [h₂], by simp [h₃]⟩
  change keeps s (disableSource i s)
  unfold disableSource
  simp only []
  split
  · exact refl s
  · exact refl s
  · refine trans ?_ (ofOp (tellLine_op i _ _))
    split
    · refine trans (ofOp (sourceOp_send i s _)) (trans (set _ _ ?_ ?_ ?_) (ofOp (setWords_op i _ _))) <;> rfl
    · split
      · refine trans (ofOp (sourceOp_send i s _)) (trans (set _ _ ?_ ?_ ?_) (ofOp (setWords_op i _ _))) <;> rfl
      · refine trans (ofOp (sourceOp_send i s _)) (trans (set _ _ ?_ ?_ ?_) (ofOp (setWords_op i _ _))) <;> rfl

/-- What a TABLE_RESET sends for one record (R164). -/
def resetMessages (i : SourceId) (r : Source) : List Instr :=
  endOfWork i r ++
  (match r.batch with
    | some b => (allPorts.filter fun p => b.copy p == .inService).map fun p => .removalRequest p i b.ref
    | none => []) ++
  (match r.state with
    | .off | .draining => []
    | _ => match lineOf i with
      | some l => [.disableReport l]
      | none => [])

theorem resetSource_eq (i : SourceId) (s : State) : resetSource i s =
    ({ s.setSrc i (freshSource (powerUpRouting i) (s.src i).nextRef (s.src i).nextRequest) with
        poolFree := s.poolFree + (s.src i).words.length }).send (resetMessages i (s.src i)) := by
  have e : ∀ ms, (setWords i [] (s.send ms)).setSrc i (freshSource (powerUpRouting i) (s.src i).nextRef
      (s.src i).nextRequest) =
      ({ s.setSrc i (freshSource (powerUpRouting i) (s.src i).nextRef (s.src i).nextRequest) with
          poolFree := s.poolFree + (s.src i).words.length }).send ms := by
    intro ms
    simp [setWords, State.setSrc, State.send]
    rfl
  simp only [resetSource]
  rw [e]
  unfold resetMessages tellLine
  cases (s.src i).state <;> cases (s.src i).batch <;> cases lineOf i <;> simp

theorem resetSource_frame (i : SourceId) (s : State) : sameBut [.sources, .pool, .messages] s (resetSource i s) ∧
    (resetSource i s).src i = freshSource (powerUpRouting i) (s.src i).nextRef (s.src i).nextRequest ∧
    ∀ j, j ≠ i → (resetSource i s).src j = s.src j := by
  rw [resetSource_eq]
  exact ⟨by simp [sameBut_iff], State.setSrc_src_same _ _ _, fun j hj => State.setSrc_src_ne _ _ _ _ hj⟩

/-- A TABLE_RESET changes the unlocked records alone. -/
theorem resetTable_frame (s : State) : sameBut [.sources, .pool, .messages] s (resetTable s) ∧
    ∀ i, (resetTable s).src i =
      if (s.src i).lock then s.src i else freshSource (powerUpRouting i) (s.src i).nextRef (s.src i).nextRequest := by
  have key : ∀ l : List (Fin 48), l.Nodup → ∀ s : State,
      let t := l.foldl (fun s i => if (s.src i).lock then s else resetSource i s) s
      sameBut [.sources, .pool, .messages] s t ∧
      ∀ i, t.src i = if i ∈ l ∧ (s.src i).lock = false then
        freshSource (powerUpRouting i) (s.src i).nextRef (s.src i).nextRequest else s.src i := by
    intro l hl
    induction l with
    | nil => exact fun s => ⟨sameBut_refl _ s, by simp⟩
    | cons a l ih =>
      intro s
      rw [List.nodup_cons] at hl
      simp only [List.foldl_cons]
      cases hk : (s.src a).lock with
      | true =>
        obtain ⟨h₁, h₂⟩ := ih hl.2 s
        refine ⟨h₁, fun j => ?_⟩
        simp only [if_true]
        rw [h₂]
        by_cases e : j = a
        · subst e; simp [hk]
        · simp [e]
      | false =>
        obtain ⟨r₁, r₂, r₃⟩ := resetSource_frame a s
        obtain ⟨h₁, h₂⟩ := ih hl.2 (resetSource a s)
        simp only [Bool.false_eq_true, if_false]
        generalize resetSource a s = u at *
        refine ⟨sameBut_trans r₁ h₁ (fun _ h => h) (fun _ h => h), fun j => ?_⟩
        rw [h₂]
        by_cases e : j = a
        · subst e; simp [hk, hl.1, r₂]
        · rw [r₃ j e]; simp [e]
  obtain ⟨h₁, h₂⟩ := key (List.finRange 48) (List.nodup_finRange _) s
  refine ⟨h₁, fun i => (h₂ i).trans ?_⟩
  cases (s.src i).lock <;> simp

theorem tableResetBody_steered {p : Port} {s : State} (h : s.steering = some p) :
    tableResetBody p s = accept ((resetTable s).send tableNotices) := steered_ok h

/-! ### TAKE and the answer to its claim -/

/-- TAKE changes its unit, the messages and, for a claim, its port's running command. -/
theorem takeBody_frame (p : Port) (s : State) : sameBut [.units, .messages, .ports] s (takeBody p s).1 ∧
    otherUnits p s (takeBody p s).1 ∧ otherPorts p s (takeBody p s).1 ∧
    ∃ running, (takeBody p s).1.port p = { s.port p with running := running } := by
  have ofOp : ∀ {t : State}, unitOp p s t → sameBut [.units, .messages, .ports] s t ∧ otherUnits p s t ∧
      otherPorts p s t ∧ ∃ running, t.port p = { s.port p with running := running } := by
    intro t h
    have hp : t.ports = s.ports := h.1 .ports (by simp)
    have hport : ∀ q, t.port q = s.port q := fun q => by simp [State.port, hp]
    exact ⟨sameBut_trans h.1 (sameBut_refl [] _) (by simp) (by simp), h.2, fun q _ => hport q, (s.port p).running,
      hport p⟩
  have delivery : ∀ k form e, unitOp p s (takeDelivery p k form e s).1 := fun k form e =>
    unitOp_trans (unitOp_set p s _) (unitOp_trans (unitOp_send p _ _) (runAdmission_op _ _))
  have offer : ∀ (t : State) (id : EntryId), unitOp p s t →
      sameBut [.units, .messages, .ports] s (t.setPort p { t.port p with running := some id }) ∧
      otherUnits p s (t.setPort p { t.port p with running := some id }) ∧
      otherPorts p s (t.setPort p { t.port p with running := some id }) ∧
      ∃ running, (t.setPort p { t.port p with running := some id }).port p = { s.port p with running := running } := by
    intro t id h
    have hp : t.ports = s.ports := h.1 .ports (by simp)
    have hport : ∀ q, t.port q = s.port q := fun q => by simp [State.port, hp]
    refine ⟨sameBut_trans h.1 (l₂ := [.ports]) (by simp [sameBut_iff]) (by simp) (by simp), h.2, fun q hq => ?_,
      some id, ?_⟩
    · rw [State.setPort_port_ne _ _ _ _ hq, hport]
    · simp [hport]
  unfold takeBody
  split
  · exact ofOp (unitOp_refl p s)
  · exact ofOp (unitOp_set p s _)
  · split
    · exact ofOp (unitOp_refl p s)
    · split
      · exact ofOp (delivery _ _ _)
      · exact ofOp (delivery _ _ _)
      · exact ofOp (delivery _ _ _)
      · exact offer _ _ (unitOp_trans (unitOp_set p s _) (unitOp_trans (unitOp_send p _ _) (runAdmission_op _ _)))

theorem settleTake_op (p : Port) (id : EntryId) (a : Answer) (s : State) : linkOp s (settleTake p id a s) := by
  unfold settleTake
  split
  · exact linkOp_trans (answer_op _ _ _ _) (linkOp_trans (linkOp_setPort (by rfl) (by rfl)) (handNext_op _ _))
  · exact linkOp_refl s

theorem settleEvicted_op (p : Port) (id : EntryId) (s : State) : linkOp s (settleEvicted p id s) := by
  unfold settleEvicted
  simp only []
  split
  · exact linkOp_trans (linkOp_setPort (by rfl) (by rfl)) (handNext_op _ _)
  · exact linkOp_refl s

/-- The answer to a claim changes its unit, and then does the link's part. -/
theorem takeAnswer_cases (p : Port) (i : SourceId) (ref round : Nat) (granted : Bool) (s : State) :
    ∃ u, unitOp p s u ∧ linkOp u (takeAnswer p i ref round granted s) := by
  unfold takeAnswer
  simp only []
  split
  · exact ⟨s, unitOp_refl p s, linkOp_refl s⟩
  · next c _ =>
    have h₀ := unitOp_set p s { s.unit p with claims := (s.unit p).claims.erase c }
    split
    · unfold answerEnded
      simp only []
      split
      · exact ⟨_, unitOp_trans h₀ (unitOp_trans (unitOp_set p _ _) (unitOp_send p _ _)), settleEvicted_op _ _ _⟩
      · exact ⟨_, unitOp_trans h₀ (unitOp_set p _ _), settleEvicted_op _ _ _⟩
    · split
      · split
        · exact ⟨_, unitOp_trans h₀ (unitOp_set p _ _), settleTake_op _ _ _ _⟩
        · exact ⟨_, unitOp_trans h₀ (unitOp_set p _ _), settleTake_op _ _ _ _⟩
      · exact ⟨_, unitOp_trans h₀ (unitOp_set p _ _), settleTake_op _ _ _ _⟩

/-! ### A step -/

/-- What a master's doing on its link can come to: nothing, another frame at one port, or a row of the table. -/
theorem linkStep_cases {e : LinkEvent} {s t : State} (h : linkStep e s = .next t) :
    t = s ∨ (∃ p f, t = setFrame p f s) ∨ ∃ c, exec c s = .next t := by
  cases e with
  | select p =>
    simp only [linkStep] at h
    split at h <;> cases h
    · exact .inr (.inl ⟨p, _, rfl⟩)
    · exact .inl rfl
  | byte p b =>
    simp only [linkStep] at h
    split at h
    · unfold clockByte at h
      split at h
      · cases h; exact .inl rfl
      · split at h
        · exact .inr (.inr ⟨_, h⟩)
        · cases h; exact .inr (.inl ⟨p, _, rfl⟩)
      · cases h; exact .inr (.inl ⟨p, _, rfl⟩)
    · cases h; exact .inl rfl
  | deselect p => exact .inr (.inr ⟨.earlyChipSelectRelease p, h⟩)

/-- A step takes something off what waits and then changes nothing, or one port's frame, or runs one command. -/
theorem step_cases {s t : State} (h : step s = .next t) :
    ∃ u, sameBut [.waiting] s u ∧ (t = u ∨ (∃ p f, t = setFrame p f u) ∨ ∃ c, exec c u = .next t) := by
  unfold step at h
  split at h
  · exact ⟨_, by simp [sameBut_iff], .inr (.inr ⟨_, h⟩)⟩
  · unfold idleStep at h
    split at h
    · exact ⟨_, by simp [sameBut_iff], .inr (.inr ⟨_, h⟩)⟩
    · exact ⟨_, by simp [sameBut_iff], linkStep_cases h⟩
    · exact ⟨s, sameBut_refl _ s, .inr (.inr ⟨_, h⟩)⟩
    · cases h; exact ⟨s, sameBut_refl _ s, .inl rfl⟩

end Sys2Proof.Machine
end

