-- ==== Sys2Proof/Tests/Slice0.lean ====
section
/-! SUPPORT. Tests of single steps, whose expected values stand in the manual's rules and worked examples; the ill-formed
terms that WellFormed refuses; and, for every statement with hypotheses, a state and operands that meet them. -/

namespace Sys2Proof.Tests

open Sys2Proof Sys2Proof.Machine

/-! ### Small states -/

/-- A part in which the named ports are ATTACHED, port 0 steers, and everything else is as power-up leaves it. -/
def part (ports : PortSet) (run : RunState) : State :=
  { State.reset with
    runState := run
    ports := Vector.ofFn fun p : Fin 4 =>
      { powerUpPort false with pstate := if portIn p ports then .attached else .detached } }

/-- The routing of source 5 in the example of section 1.9. -/
def routing5 : Routing :=
  { mode := .direct, targets := 2#4, fallback := some 2, priority := 3, kind := .line .rise 2 }

/-- The routing of source 34 in the example of section 3.7. -/
def routing34 : Routing := { mode := .direct, targets := 2#4, fallback := none, priority := 2, kind := .soft 3 5#4 }

/-- An enabled record. -/
def record (r : Routing) (st : SourceState) : Source := { freshSource r 0 0 with enable := true, state := st }

/-- A batch of count 1 formed at time 1000 with the given copies. -/
def batchOf1 (form : Form) (copies : Vector CopyState 4) : Batch :=
  { ref := 0, count := 1, overrun := false, stamp := 1000#32, payload := none, form := form, priority := 3,
    copies := copies, excluded := 0#4, offer := none }

/-- An ACTIVE record of source 5 with the given batch. -/
def active (b : Batch) : Source := { record routing5 .active with batch := some b, nextRef := 1 }

/-- A SHARED routing to ports 0 and 1 with fallback 3. -/
def shared : Routing :=
  { mode := .shared, targets := 3#4, fallback := some 3, priority := 3, kind := .line .rise 2 }

/-- A BROADCAST routing to ports 1 and 2. -/
def broadcast : Routing :=
  { mode := .broadcast, targets := 6#4, fallback := none, priority := 3, kind := .line .rise 2 }

/-- An entry of source 5 of the given kind. -/
def entry (kind : EntryKind) : Placement :=
  { id := { source := 5, kind := kind, ref := 0 }, priority := 3,
    fields := { count := 1, overrun := false, stamp := 1000#32, payload := none } }

/-- An entry of another source at another priority. -/
def entryOf (i : SourceId) (priority : Priority) : Placement :=
  { id := { source := i, kind := .direct, ref := 0 }, priority := priority,
    fields := { count := 1, overrun := false, stamp := 1000#32, payload := none } }

/-- A delivery of source 5 in service. -/
def delivery (seq : Byte) (deadline : Option Time) : ServiceRecord :=
  { seq := seq, source := 5, kind := .direct, ref := 0, taken := 0#32, deadline := deadline }

/-- An open offer of source 5 to ports 0 and 1. -/
def offer5 : Offer :=
  { source := 5, ref := 0, round := 1, priority := 3, candidates := 3#4, holders := 1#4, owed := 2#4, opened := 0#32,
    deadline := 20000#32 }

/-- Every port ATTACHED and the part RUNNING. -/
def run4 : State := part 0xF#4 .running

/-- Every port ATTACHED and the part STOPPED. -/
def stop4 : State := part 0xF#4 .stopped

/-- The state that a command leaves. -/
def after (c : Instr) (s : State) : State :=
  match exec c s with
  | .next t => t
  | _ => s

/-- The status and data of the port's last-response store. -/
def reply (p : Port) (s : State) : Option (Status × List Byte) := (s.port p).store.map fun r => (r.status, r.data)

/-- The run of source 5 after an occurrence in IDLE. -/
def formed5 : State := after (.occurrenceReport 5) { run4.setSrc 5 (record routing5 .idle) with time := 1000#32 }

/-! ### Well-formedness: one ill-formed term for each check -/

theorem test_wf_takenReport : (Instr.takenReport 5 1 0 0#8).wellFormed = false := by decide
theorem test_wf_grantOpen :
    (Instr.grantOpen 0 5 0 3 0#4 0#4 (entry .direct).fields).wellFormed = false ∧
    (Instr.grantOpen 0 5 0 3 3#4 1#4 (entry .direct).fields).wellFormed = false ∧
    (Instr.grantOpen 0 5 0 3 3#4 0#4 { (entry .direct).fields with count := 0 }).wellFormed = false ∧
    (Instr.grantOpen 0 40 0 3 3#4 0#4 (entry .direct).fields).wellFormed = false := by decide
theorem test_wf_rounds :
    (Instr.offerAdmissionReport 5 1 0).wellFormed = false ∧ (Instr.claim 1 5 0 5).wellFormed = false ∧
    (Instr.candidateLoss 5 0 0 1).wellFormed = false ∧ (Instr.claimAnswer 1 5 0 5 true).wellFormed = false := by decide
theorem test_wf_placement :
    (Instr.placement 1 (entry (.offer 0))).wellFormed = false ∧
    (Instr.placement 1 { entry .direct with fields := { (entry .direct).fields with count := 256 } }).wellFormed = false ∧
    (Instr.withdrawalRequest 1 (entry (.offer 5)).id).wellFormed = false := by decide
theorem test_wf_noticePosting :
    (Instr.noticePosting 1 .table (.source 5)).wellFormed = false ∧
    (Instr.noticePosting 1 .peer (.port 1)).wellFormed = false := by decide
set_option maxRecDepth 10000 in
theorem test_wf_frameError :
    (Instr.frameError 0 0x12#8 [] 0#8).wellFormed = false ∧
    (Instr.frameError 0 0x12#8 [3#8] 0x11#8).wellFormed = false := by decide
theorem test_wf_badCommand : (Instr.badCommand 0 0x12#8).wellFormed = false := by decide

/-! ### Frames (R173, R181, R183) -/

set_option maxRecDepth 40000 in
theorem test_worked_check_bytes :
    checkByte [0x01#8] = 0x6D#8 ∧ checkByte [0x00#8] = 0x42#8 ∧ checkByte [0x12#8, 0x03#8] = 0x11#8 ∧
    checkByte [0x05#8] = 0xD1#8 ∧ checkByte [0x04#8] = 0xFE#8 := by decide
theorem test_table_gives_no_bits : decodeTableWord 8 0x12 = none := by decide
theorem test_frames_without_arguments :
    [0x01, 0x03, 0x04, 0x10, 0x11, 0x13, 0x14, 0x18, 0x40, 0x41, 0x44, 0x50, 0x51, 0x53].map
      (fun c => decodeFrame 2 (BitVec.ofNat 8 c) []) =
    ([.status 2, .detach 2, .repeatLast 2, .peek 2, .take 2, .hold 2, .resume 2, .readSlots 2, .run 2, .stop 2,
      .tableReset 2, .readLines 2, .readTime 2, .readIdent 2] : List Instr).map some := by decide
theorem test_frames_with_one_argument :
    [0x12, 0x15, 0x16, 0x30, 0x32, 0x33, 0x34, 0x35, 0x36, 0x42, 0x45, 0x52].map
      (fun c => decodeFrame 2 (BitVec.ofNat 8 c) [3#8]) =
    ([.doneSeq 2 3#8, .setMask 2 3#8, .setGate 2 3#8, .readSource 2 3#8, .enable 2 3#8, .disable 2 3#8, .adopt 2 3#8,
      .release 2 3#8, .lock 2 3#8, .evict 2 3#8, .setWindow 2 3#8, .readOffer 2 3#8] : List Instr).map some := by decide
theorem test_frames_with_more_arguments :
    decodeFrame 0 0x02#8 [0x12#8, 0x34#8] = some (.attach 0 0x1234#16) ∧
    decodeFrame 0 0x17#8 [0x0F#8, 0xFF#8] = some (.setLimit 0 4095#16) ∧
    decodeFrame 0 0x43#8 [5#8, 0xFF#8] = some (.seize 0 5#8 0xFF#8) ∧
    decodeFrame 0 0x20#8 [34#8, 0x11#8, 0x22#8] = some (.raiseWord 0 34#8 0x1122#16) ∧
    decodeFrame 0 0x31#8 [5#8, 1#8, 2#8, 2#8, 3#8, 0#8, 2#8] = some (.writeRoute 0 5#8
      { mode := 1#8, targets := 2#8, fallback := 2#8, priority := 3#8, kindA := 0#8, kindB := 2#8 }) ∧
    decodeFrame 0 0x05#8 [] = some (.badCommand 0 0x05#8) := by decide

/-! ### Section 1.9: a direct source across a detach -/

/-- The rising edge at time 1000 forms a DIRECT batch of count 1 and stamp 1000 for port 1. -/
theorem test_occurrence_forms_direct :
    (formed5.src 5).state = .active ∧ (formed5.src 5).pending = 0 ∧
    (formed5.src 5).batch.map (fun b => (b.form, b.count, b.stamp, b.overrun)) = some (.direct, 1, 1000#32, false) ∧
    (formed5.src 5).batch.map (·.copies) = some #v[.noCopy, .owed, .noCopy, .noCopy] := by decide
/-- The two edges that arrive in ACTIVE are counted, and the stamp stays that of the first. -/
theorem test_occurrence_counted_in_active :
    let t := after (.occurrenceReport 5) { after (.occurrenceReport 5) { formed5 with time := 1500#32 } with
      time := 1800#32 }
    (t.src 5).pending = 2 ∧ (t.src 5).firstStamp = some 1500#32 := by decide
/-- The withdrawal merges the batch with them, and the fallback gets a batch of count 3 and stamp 1000. -/
theorem test_withdrawal_returns :
    let s := part 0xD#4 .running
    let t := after (.withdrawalReport 5 1 0) (s.setSrc 5
      { active (batchOf1 .direct #v[.noCopy, .queued, .noCopy, .noCopy]) with
        pending := 2, firstStamp := some 1500#32 })
    (t.src 5).lastOutcome = .returned ∧ (t.src 5).pending = 0 ∧
    (t.src 5).batch.map (fun b => (b.form, b.count, b.stamp, b.copy 1, b.copy 2)) =
      some (.fallback, 3, 1000#32, .noCopy, .owed) := by decide
/-- DU2 hands the entry over as sequence 1, kind FALLBACK. -/
theorem test_take_fallback :
    let s := run4.setUnit 2 { powerUpUnit with
      entries := [{ entry .fallback with fields := { (entry .fallback).fields with count := 3 } }] }
    let t := after (.take 2) s
    reply 2 t = some (.ok, [4#8, 5#8, 1#8, 3#8, 0#8, 0#8, 0#8, 0x03#8, 0xE8#8, 0#8, 0#8]) ∧
    t.inFlight = [.takenReport 5 2 0 1#8] := by decide
/-- DONE(1) is reported, and the report completes the batch. -/
theorem test_done :
    let t := after (.doneSeq 2 1#8) (run4.setUnit 2 (powerUpUnit.setSlot 0 (.held (delivery 1#8 none))))
    reply 2 t = some (.ok, []) ∧ t.inFlight = [.doneReport 5 2 0] ∧ (t.unit 2).slot 0 = .free := by decide
theorem test_done_report_completes :
    let t := after (.doneReport 5 2 0) (run4.setSrc 5
      (active (batchOf1 .fallback #v[.noCopy, .noCopy, .inService, .noCopy])))
    (t.src 5).state = .idle ∧ (t.src 5).lastOutcome = .delivered ∧ t.inFlight = [.completionReport 5] := by decide

/-! ### Section 1.10: disabling a broadcast source in service -/

/-- Source 40 before the DISABLE of its owner, port 2. -/
def draining40 : State :=
  { run4.setSrc 40
      { record { mode := .broadcast, targets := 0xB#4, fallback := none, priority := 4, kind := .soft 4 0xF#4 } .active with
        owner := some 2
        words := [{ word := 0x0B17#16, raiser := 2, stamp := 0#32 }, { word := 0x0B18#16, raiser := 2, stamp := 1#32 }]
        batch := some (batchOf1 .broadcast #v[.inService, .queued, .noCopy, .done]), nextRef := 1 } with
    poolFree := 62 }

theorem test_disable_in_service :
    let t := after (.disable 2 40#8) draining40
    (t.src 40).state = .draining ∧ (t.src 40).words.map PoolWord.word = [0x0B17#16] ∧ t.poolFree = 63 ∧
    (t.src 40).batch.map (fun b => (b.copy 0, b.copy 1, b.copy 2, b.copy 3)) =
      some (.inService, .noCopy, .noCopy, .done) ∧
    t.inFlight = [.withdrawalRequest 1 { source := 40, kind := .broadcast, ref := 0 }] := by decide
theorem test_raise_while_draining :
    reply 0 (after (.raiseWord 0 40#8 1#16) (after (.disable 2 40#8) draining40)) = some (.disabled, []) ∧
    reply 2 (after (.enable 2 40#8) (after (.disable 2 40#8) draining40)) = some (.busy, []) := by decide
theorem test_draining_ends :
    let t := after (.doneReport 40 0 0) (after (.disable 2 40#8) draining40)
    (t.src 40).state = .off ∧ (t.src 40).words = [] ∧ (t.src 40).lastOutcome = .delivered ∧ t.poolFree = 64 := by decide

/-! ### Section 2.8: a held level served twice, and section 2.9 -/

/-- Line 12 with its source 12, trigger HIGH and settle 0, enabled. -/
def level12 (settled : Bool) : State :=
  (run4.setSrc 12 (record { mode := .direct, targets := 1#4, fallback := none, priority := 4, kind := .line .high 0 } .idle)).setLine
    12 { raw := settled, settled := settled, timer := none, image := true }

theorem test_level_rises :
    let t := after (.rawLevelChange 12 true) (level12 false)
    (t.line 12).settled = true ∧ t.inFlight = [.occurrenceReport 12] ∧ t.pins.lin = 0x1000#32 := by decide
theorem test_level_falls : (after (.rawLevelChange 12 false) (level12 true)).inFlight = [] := by decide
theorem test_completion_rearms :
    (after (.completionReport 12) (level12 true)).inFlight = [.occurrenceReport 12] ∧
    (after (.completionReport 12) (level12 false)).inFlight = [] := by decide
theorem test_enable_report :
    let t := after (.enableReport 12) (level12 true)
    t.inFlight = [.occurrenceReport 12] ∧ (t.line 12).image = true := by decide
theorem test_disable_report : ((after (.disableReport 12) (level12 true)).line 12).image = false := by decide
/-- A change of a line with settle 2 is timed for 4 µs; the return within it is not reported (R30, R31). -/
theorem test_settle_timing :
    let s := { run4.setSrc 5 (record routing5 .idle) with time := 0xFFFFFFFE#32 }
    let t := after (.rawLevelChange 5 true) s
    (t.line 5).timer = some 2#32 ∧ (t.line 5).settled = false ∧
    ((after (.rawLevelChange 5 false) t).line 5).timer = none := by decide
theorem test_settle_expiry :
    let s := { (run4.setSrc 5 (record routing5 .idle)).setLine 5
      { raw := true, settled := false, timer := some 4#32, image := true } with time := 4#32 }
    let t := after (.settleExpiry 5) s
    (t.line 5).settled = true ∧ t.inFlight = [.occurrenceReport 5] := by decide

/-! ### Section 3.7: a soft source through a detach -/

/-- Source 34, with the given list. -/
def soft34 (state : SourceState) (words : List PoolWord) : State :=
  { run4.setSrc 34 { record routing34 state with words := words } with poolFree := 64 - words.length, time := 100#32 }

theorem test_raise_forms :
    let t := after (.raiseWord 0 34#8 0x1111#16) (soft34 .idle [])
    t.poolFree = 63 ∧ (t.src 34).state = .active ∧
    (t.src 34).batch.map (fun b => (b.form, b.stamp, b.payload)) =
      some (.direct, 100#32, some { word := 0x1111#16, raiser := 0 }) ∧ pendingCount (t.src 34) = 0 := by decide
theorem test_raise_refused :
    let w : PoolWord := { word := 0#16, raiser := 0, stamp := 0#32 }
    reply 2 (after (.raiseWord 2 34#8 0x4444#16) (soft34 .active [w, w, w])) = some (.full, []) ∧
    reply 1 (after (.raiseWord 1 34#8 0x5555#16) (soft34 .active [w, w, w])) = some (.notRaiser, []) := by decide
set_option maxRecDepth 10000 in
/-- The ATTACH of port 1 lets the WAITING source form again. -/
theorem test_attach_report :
    let t := after (.attachReport 1) (soft34 .waiting [{ word := 0x1111#16, raiser := 0, stamp := 100#32 }])
    (t.src 34).batch.map (·.copy 1) = some .owed := by decide
set_option maxRecDepth 10000 in
theorem test_run_report :
    let t := after .runReport (soft34 .waiting [{ word := 0x1111#16, raiser := 0, stamp := 100#32 }])
    (t.src 34).state = .active := by decide

/-! ### Reports at the Source Table (R16 to R21) -/

theorem test_admitted_report :
    let t := after (.admittedReport 5 1 0) formed5
    (t.src 5).batch.map (·.copy 1) = some .queued := by decide
theorem test_taken_report :
    let t := after (.takenReport 5 1 0 1#8) (after (.admittedReport 5 1 0) formed5)
    (t.src 5).batch.map (·.copy 1) = some .inService := by decide
/-- A taken report of a batch that has ended has the delivery removed (R17). -/
theorem test_taken_report_late : (after (.takenReport 5 1 7 1#8) run4).inFlight = [.removalRequest 1 5 7] := by decide
theorem test_revoked_report :
    let t := after (.revokedReport 5 1 0 .direct) (stop4.setSrc 5
      (active (batchOf1 .direct #v[.noCopy, .inService, .noCopy, .noCopy])))
    (t.src 5).state = .waiting ∧ (t.src 5).lastOutcome = .revoked ∧ (t.src 5).pending = 1 := by decide
/-- A revoked SHARED copy is re-offered with its port excluded (R21). -/
theorem test_revoked_report_shared :
    let t := after (.revokedReport 5 1 0 .shared) (run4.setSrc 5
      { active (batchOf1 .shared #v[.noCopy, .inService, .noCopy, .noCopy]) with routing := shared })
    (t.src 5).batch.map (·.excluded) = some 2#4 ∧ t.inFlight = [.slotRequest 5 (.reOffer 0) 0 3 1000#32] := by decide

/-- Source 5 with an open offer to ports 0 and 1. -/
def offered5 : State :=
  (run4.setSrc 5 { active { batchOf1 .shared #v[.offered, .offered, .noCopy, .noCopy] with offer := some 0 } with
    routing := shared }).setOffer 0 (.opened offer5)

theorem test_claim_granted :
    let t := after (.claimGranted 5 0 1) offered5
    (t.src 5).batch.map (fun b => (b.copy 0, b.copy 1, b.offer)) = some (.noCopy, .inService, none) := by decide
theorem test_candidate_lost :
    let t := after (.candidateLost 5 0 1) offered5
    (t.src 5).batch.map (fun b => (b.copy 0, b.copy 1, b.excluded)) = some (.offered, .noCopy, 0#4) := by decide
theorem test_expiry_report :
    let t := after (.expiryReport 5 0 true .deadline) offered5
    (t.src 5).batch.map (fun b => (b.form, b.copy 0, b.copy 3)) = some (.fallback, .noCopy, .owed) := by decide
theorem test_slot_grant :
    let t := after (.slotGrant 2 5 .first 0) (run4.setSrc 5
      { record shared .waiting with pending := 1, firstStamp := some 9#32, slotRequest := some 0 })
    (t.src 5).state = .active ∧
    t.inFlight = [.grantOpen 2 5 0 3 3#4 0#4 { count := 1, overrun := false, stamp := 9#32, payload := none }] := by decide

/-! ### The Offer Arbiter (chapter 5) -/

theorem test_slot_request :
    let t := after (.slotRequest 5 .first 0 3 9#32) offered5
    t.offer 1 = .reserved 5 .first 0 ∧ t.inFlight = [.slotGrant 1 5 .first 0] := by decide
theorem test_slot_request_cancel :
    (after (.slotRequestCancel 5 0) { run4 with requests :=
      [{ source := 5, kind := .first, req := 0, priority := 3, stamp := 9#32 },
       { source := 6, kind := .first, req := 0, priority := 3, stamp := 9#32 }] }).requests.map (·.source) = [6] := by
  decide
/-- A RE-OFFER at priority 7 goes before a FIRST request at priority 0 (R85). -/
theorem test_slot_arbiter :
    let s := { run4 with requests :=
      [{ source := 6, kind := .first, req := 0, priority := 0, stamp := 0#32 },
       { source := 5, kind := .reOffer 0, req := 1, priority := 7, stamp := 9#32 }], time := 20#32 }
    (bestRequest 20#32 s.requests).map (·.source) = some 5 := by decide
theorem test_grant_open :
    let t := after (.grantOpen 3 5 0 3 3#4 0#4 (entry .direct).fields) (run4.setOffer 3 (.reserved 5 .first 0))
    t.offer 3 = .opened { offer5 with holders := 0#4, owed := 3#4 } ∧
    t.inFlight = [.placement 0 (entry (.offer 1)), .placement 1 (entry (.offer 1))] := by decide
theorem test_grant_decline :
    (after (.grantDecline 3) (run4.setOffer 3 (.reserved 5 .first 0))).offer 3 = .free := by decide
theorem test_offer_admission :
    (after (.offerAdmissionReport 5 1 1) offered5).offer 0 =
      .opened { offer5 with holders := 3#4, owed := 0#4 } := by decide
theorem test_claim :
    let t := after (.claim 1 5 0 1) offered5
    t.offer 0 = .free ∧ t.inFlight = [.claimGranted 5 0 1, .claimAnswer 1 5 0 1 true,
      .withdrawalRequest 0 { source := 5, kind := .offer 1, ref := 0 }] := by decide
theorem test_claim_lost : (after (.claim 2 5 0 1) offered5).inFlight = [.claimAnswer 2 5 0 1 false] := by decide
theorem test_candidate_loss :
    let t := after (.candidateLoss 5 0 1 1) offered5
    t.offer 0 = .opened { offer5 with candidates := 1#4, owed := 0#4 } ∧ t.inFlight = [.candidateLost 5 0 1] := by decide
theorem test_close_request :
    let t := after (.closeRequest 5 0) offered5
    t.offer 0 = .free ∧ t.inFlight.length = 2 := by decide
/-- The expiry of an offer whose fallback, port 3, is ATTACHED converts the batch (R96). -/
theorem test_offer_expiry :
    let t := after (.offerExpiry 0) { offered5 with time := 20000#32 }
    t.offer 0 = .free ∧ t.inFlight.getLast? = some (.expiryReport 5 0 true .deadline) := by decide

/-! ### The Delivery Units (chapters 4 and 6) -/

theorem test_placement :
    let t := after (.placement 1 (entry .direct)) run4
    (t.unit 1).entries = [entry .direct] ∧ t.attn = 2#4 ∧ t.inFlight = [.admittedReport 5 1 0] := by decide
theorem test_placement_detached :
    (after (.placement 1 (entry (.offer 1))) (part 1#4 .running)).inFlight = [.candidateLoss 5 0 1 1] := by decide
theorem test_withdrawal_request :
    let t := after (.withdrawalRequest 1 (entry .direct).id)
      (run4.setUnit 1 { powerUpUnit with entries := [entry .direct, entryOf 6 3] })
    (t.unit 1).entries.map (·.id.source) = [6] := by decide
theorem test_notice_posting :
    let t := after (.noticePosting 1 .table .none) (after (.noticePosting 1 .table .none) { run4 with time := 7#32 })
    (t.unit 1).notices = [{ kind := .table, count := 2, subject := .none, stamp := 7#32 }] := by decide
theorem test_removal_request :
    let t := after (.removalRequest 1 5 0) (run4.setUnit 1 { powerUpUnit.setSlot 2 (.held (delivery 9#8 none)) with
      revoked := [1#8, 2#8, 3#8, 4#8] })
    (t.unit 1).slot 2 = .free ∧ (t.unit 1).revoked = [2#8, 3#8, 4#8, 9#8] := by decide
theorem test_service_deadline :
    let t := after (.serviceDeadlineExpiry 1 2)
      { run4.setUnit 1 (powerUpUnit.setSlot 2 (.held (delivery 9#8 (some 5#32)))) with time := 5#32 }
    (t.unit 1).revoked = [9#8] ∧ (t.unit 1).notices.map (·.kind) = [.revoked] ∧
    t.inFlight = [.revokedReport 5 1 0 .direct] := by decide
/-- From 255 the counter goes to 1, and it passes numbers in use (R74). -/
theorem test_sequence_numbers :
    assignedSeq { powerUpUnit with seq := 255#8 } = 1#8 ∧
    assignedSeq { powerUpUnit.setSlot 0 (.held (delivery 1#8 none)) with revoked := [2#8] } = 3#8 := by decide

/-- A TAKE of an offer entry that waits for the answer to its claim at port 1. -/
def claiming : State := after (.take 1) (run4.setUnit 1 { powerUpUnit with entries := [entry (.offer 1)] })

theorem test_take_offer :
    (claiming.unit 1).slot 0 = .reserved (entry (.offer 1)).id ∧ claiming.inFlight = [.claim 1 5 0 1] ∧
    reply 1 claiming = none := by decide
theorem test_claim_answer :
    let t := after (.claimAnswer 1 5 0 1 true) claiming
    slotSeq ((t.unit 1).slot 0) = some 1#8 ∧
    reply 1 t = some (.ok, [2#8, 5#8, 1#8, 1#8, 0#8, 0#8, 0#8, 0x03#8, 0xE8#8, 0#8, 0#8]) := by decide
theorem test_claim_answer_lost :
    let t := after (.claimAnswer 1 5 0 1 false) claiming
    (t.unit 1).slot 0 = .free ∧ reply 1 t = some (.lost, [0#8, 5#8] ++ zeros 9) := by decide
/-- An EVICT meanwhile leaves EVICTED in the store, and a grant is reported revoked (R73, R180). -/
theorem test_claim_answer_evicted :
    let t := after (.claimAnswer 1 5 0 1 true) (after (.evict 0 1#8) { claiming with inFlight := [] })
    reply 1 t = some (.evicted, zeros 11) ∧ (t.unit 1).slot 0 = .free ∧
    t.inFlight.getLast? = some (.revokedReport 5 1 0 .shared) := by decide

/-! ### Commands -/

theorem test_status :
    reply 2 (after (.status 2) (part 0x5#4 .running)) =
      some (.ok, [1#8, 0#8, 0#8, 0x11#8, 64#8, 0#8, 1#8, 20#8]) := by decide
theorem test_attach :
    let t := after (.attach 2 0xBEEF#16) (part 1#4 .running)
    (t.port 2).pstate = .attached ∧ (t.port 2).tag = 0xBEEF#16 ∧ t.inFlight = [.attachReport 2] ∧
    reply 1 (after (.attach 1 0#16) run4) = some (.already, []) := by decide
theorem test_detach :
    let t := after (.detach 1) (run4.setUnit 1 { powerUpUnit with entries := [entry .direct] })
    (t.port 1).pstate = .detached ∧ t.inFlight = [.withdrawalReport 5 1 0, .noticePosting 0 .peer (.port 1),
      .noticePosting 2 .peer (.port 1), .noticePosting 3 .peer (.port 1)] := by decide
theorem test_repeat :
    reply 1 (after (.repeatLast 1) (after (.hold 1) run4)) = some (.ok, []) ∧
    repeatAnswer none = { status := .empty, data := zeros 62 } := by decide
theorem test_peek :
    reply 1 (after (.peek 1) run4) = some (.empty, [0#8, 63#8] ++ zeros 9) ∧
    reply 1 (after (.peek 1) (run4.setUnit 1 { powerUpUnit with entries := [entry .direct] })) =
      some (.ok, [1#8, 5#8, 0#8, 1#8, 0#8, 0#8, 0#8, 0x03#8, 0xE8#8, 0#8, 0#8]) := by decide
theorem test_done_late :
    let s := run4.setUnit 1 { powerUpUnit with revoked := [7#8, 8#8, 9#8] }
    reply 1 (after (.doneSeq 1 8#8) s) = some (.late, []) ∧
    ((after (.doneSeq 1 8#8) s).unit 1).revoked = [7#8, 9#8] ∧
    reply 1 (after (.doneSeq 1 0#8) s) = some (.notHeld, []) := by decide
theorem test_gate :
    let s := run4.setUnit 1 { powerUpUnit with entries := [entry .direct, entryOf 6 3] }
    (after (.hold 1) s).attn = 0#4 ∧ (after (.resume 1) (after (.hold 1) s)).attn = 2#4 ∧
    (after (.take 1) (after (.setGate 1 1#8) s)).attn = 0#4 := by decide
theorem test_mask :
    let s := run4.setUnit 1 { powerUpUnit with entries := [entry .direct] }
    (after (.setMask 1 0xF7#8) s).attn = 0#4 ∧ (after (.setMask 1 0x08#8) s).attn = 2#4 := by decide
theorem test_limit :
    reply 1 (after (.setLimit 1 4096#16) run4) = some (.badArg, []) ∧
    ((after (.setLimit 1 4095#16) run4).unit 1).limit = 4095#16 := by decide
theorem test_read_slots :
    (reply 1 (after (.readSlots 1) (run4.setUnit 1 { powerUpUnit.setSlot 1 (.held (delivery 9#8 (some 5#32))) with
      revoked := [7#8] }))).map (fun r => (r.2.take 24, r.2.drop 48)) =
      some ([0#8, 0#8, 63#8, 0#8] ++ zeros 8 ++ [0x82#8, 9#8, 5#8, 1#8] ++ zeros 7 ++ [5#8],
        [7#8, 0#8, 0#8, 0#8, 0#8, 0#8]) := by decide
theorem test_read_source :
    (reply 1 (after (.readSource 1 5#8) run4)).map (fun r => (r.2.take 10, r.2.drop 14)) =
      some ([1#8, 0#8, 63#8, 4#8, 0#8, 2#8, 63#8, 0#8, 0#8, 0#8], zeros 10 ++ [63#8, 0#8, 0#8, 0#8]) := by decide

/-- Source 5 is owned by port 1 and OFF, with the routing of section 1.9. -/
def owned5 : State := run4.setSrc 5 { freshSource routing5 0 0 with owner := some 1 }

theorem test_write_route :
    let block : RouteBlock := { mode := 3#8, targets := 6#8, fallback := 63#8, priority := 7#8, kindA := 4#8, kindB := 15#8 }
    let t := after (.writeRoute 1 5#8 block) owned5
    (t.src 5).routing = { mode := .broadcast, targets := 6#4, fallback := none, priority := 7, kind := .line .low 15 } ∧
    reply 1 (after (.writeRoute 1 5#8 { block with mode := 1#8 }) owned5) = some (.badArg, []) := by decide
theorem test_enable :
    ((after (.enable 1 5#8) owned5).src 5).state = .idle ∧
    (after (.enable 1 5#8) owned5).inFlight = [.enableReport 5] ∧
    reply 0 (after (.enable 0 5#8) owned5) = some (.notOwner, []) := by decide
theorem test_ownership :
    ((after (.adopt 2 6#8) owned5).src 6).owner = some 2 ∧ reply 2 (after (.adopt 2 5#8) owned5) = some (.owned, []) ∧
    ((after (.release 1 5#8) owned5).src 5).owner = none := by decide
theorem test_lock :
    let t := after (.lock 1 5#8) owned5
    (t.src 5).lock = true ∧ reply 1 (after (.release 1 5#8) t) = some (.locked, []) := by decide
theorem test_run_and_stop :
    (after (.run 0) stop4).runState = .running ∧ (after (.run 0) stop4).inFlight = [.runReport] ∧
    (after (.stop 0) run4).runState = .stopped ∧ reply 1 (after (.stop 1) run4) = some (.notSteering, []) := by decide
theorem test_evict :
    ((after (.evict 0 3#8) run4).port 3).pstate = .evicted ∧
    reply 0 (after (.evict 0 0#8) run4) = some (.badArg, []) := by decide
theorem test_seize :
    ((after (.seize 0 5#8 0xFF#8) owned5).src 5).owner = none ∧
    (after (.seize 0 5#8 2#8) owned5).inFlight = [.noticePosting 1 .seized (.source 5)] ∧
    reply 0 (after (.seize 0 5#8 63#8) owned5) = some (.badArg, []) := by decide
set_option maxRecDepth 10000 in
theorem test_table_reset :
    let t := after (.tableReset 0) (owned5.setSrc 6 { freshSource routing5 0 0 with owner := some 1, lock := true })
    (t.src 5).owner = none ∧ (t.src 6).owner = some 1 ∧
    t.inFlight = [.noticePosting 0 .table .none, .noticePosting 1 .table .none, .noticePosting 2 .table .none,
      .noticePosting 3 .table .none] := by decide
theorem test_window :
    (after (.setWindow 0 255#8) run4).window = 255#8 ∧ reply 0 (after (.setWindow 0 0#8) run4) = some (.badArg, []) := by
  decide
theorem test_observation :
    reply 3 (after (.readTime 3) { run4 with time := 0x01020304#32 }) = some (.ok, [1#8, 2#8, 3#8, 4#8]) ∧
    reply 3 (after (.readIdent 3) run4) = some (.ok, [0x42#8, 0x44#8, 0x04#8, 0x32#8, 1#8, 0#8]) ∧
    reply 3 (after (.readLines 3) (level12 true)) = some (.ok, [0#8, 0#8, 0x10#8, 0#8]) := by decide
theorem test_read_offer :
    reply 3 (after (.readOffer 3 0#8) offered5) = some (.ok, [2#8, 5#8, 1#8, 3#8, 3#8, 0x21#8, 0#8, 0#8, 0#8, 0#8, 0#8,
      0#8, 0x4E#8, 0x20#8]) ∧
    reply 3 (after (.readOffer 3 16#8) offered5) = some (.badArg, zeros 14) := by decide

/-! ### The link, resets and time -/

/-- The frame in progress of port 1, with the given bytes of its command phase received. -/
def assembling (received : List Byte) : State := setFrame 1 (some (.assembling received)) run4

/-- A frame of port 1 whose command phase is complete, its response OK alone, with the given number of bytes clocked since. -/
def answering (clocked : Nat) : State :=
  setFrame 1 (some (.answering
    { command := [0x13#8, 0#8], response := [0#8, 0x42#8], awaiting := false, clocked := clocked })) run4

theorem test_frame_error : reply 1 (after (.frameError 1 0x12#8 [3#8] 0x12#8) run4) = none := by
  set_option maxRecDepth 10000 in decide
/-- The last byte of a STATUS frame, 6Dh (R173), has the command taken; a DONE(3) frame with check byte 11h is assembled from
its second byte on, and a wrong check byte gives FRAME_ERROR, which the store does not keep (R172, R174, R176). -/
theorem test_link_bytes :
    (∀ t, linkStep (.byte 1 0x6D#8) (assembling [0x01#8]) = .next t →
      reply 1 t = some (.ok, [1#8, 0#8, 0#8, 0x55#8, 64#8, 0#8, 1#8, 20#8])) ∧
    linkStep (.byte 1 3#8) (assembling [0x12#8]) = .next (assembling [0x12#8, 3#8]) ∧
    linkStep (.byte 1 0x11#8) (assembling [0x12#8, 3#8]) = exec (.doneSeq 1 3#8) (assembling [0x12#8, 3#8]) ∧
    linkStep (.byte 1 0x12#8) (assembling [0x12#8, 3#8]) =
      exec (.frameError 1 0x12#8 [3#8] 0x12#8) (assembling [0x12#8, 3#8]) := by
  refine ⟨fun t h => ?_, ?_, ?_, ?_⟩
  · cases h; set_option maxRecDepth 10000 in decide
  all_goals set_option maxRecDepth 20000 in rfl
/-- What PnSDO shows in the command phase, in the gap, in the response and after it, and with no frame (R172). -/
theorem test_driven_bytes :
    [run4, assembling [0x12#8], answering 0, answering 1, answering 2, answering 3].map (sdoByte · 1) =
      [none, some 0#8, some 0#8, some 0#8, some 0x42#8, some 0#8] := by decide
theorem test_bad_command : reply 1 (after (.badCommand 1 0x05#8) run4) = some (.badCommand, []) := by decide
theorem test_early_release : ((after (.earlyChipSelectRelease 1) (after (.hold 1) run4)).port 1).frame = none := by decide
theorem test_tick :
    (after .timeBaseTick { run4 with time := 0xFFFFFFFF#32 }).time = 0#32 ∧
    (after .timeBaseTick { offered5 with time := 19999#32 }).inFlight = [.offerExpiry 0] := by decide
theorem test_power_up :
    (after (.powerUp 3#3 0#32 false 0#4) run4).steering = some 3 ∧ (after (.powerUp 4#3 0#32 false 0#4) run4).steering = none ∧
    (after (.powerUp 4#3 0#32 false 0#4) run4).runState = .running := by decide
theorem test_chip_reset :
    let s := after .crstAssert { level12 true with inFlight := [.runReport] }
    s.inFlight = [] ∧ (after (.crstRelease 0#3) s).cause = .chip ∧
    ((after (.crstRelease 0#3) s).src 12).state = .off := by decide
theorem test_chip_reset_locked :
    let s := after .crstAssert (level12 true)
    let t := after (.crstRelease 0#3) { s.setSrc 12 { s.src 12 with lock := true } with pins := { s.pins with lin := 0x1000#32 } }
    (t.src 12).state = .idle ∧ t.inFlight = [.occurrenceReport 12] := by decide
theorem test_port_reset :
    let t := after (.pnrstAssert 1) (after (.setLimit 1 9#16) run4)
    (t.port 1).pstate = .detached ∧ (t.unit 1).limit = 0#16 ∧ (t.port 1).store = none ∧
    takesFrames (after (.pnrstRelease 1 true) t) 1 = false ∧ takesFrames (after (.pnrstRelease 1 false) t) 1 = true := by
  decide

/-! ### States and operands that meet the hypotheses of the statements, each clause at a boundary of its range -/

theorem witness_StepRunsFrontCommand : ({ run4 with pending := [.hold 1] } : State).pending = [.hold 1] := by decide
theorem witness_EmptyQueueDelivers :
    let linked := { run4 with link := [.select 1] }
    run4.pending = [] ∧ run4.handed = [] ∧ run4.link = [] ∧ run4.inFlight = [] ∧ formed5.pending = [] ∧
    formed5.handed = [] ∧ formed5.link = [] ∧ formed5.inFlight = .placement 1 (entry .direct) :: [] ∧
    linked.pending = [] ∧ linked.handed = [] ∧ linked.link = .select 1 :: [] ∧
    ({ run4 with handed := [.hold 1] } : State).handed = .hold 1 :: [] := by decide
theorem witness_FramesReadBack :
    (Instr.doneSeq 3 255#8).wellFormed = true ∧ framePort (.doneSeq 3 255#8) = some 3 ∧
    encodeFrame (.doneSeq 3 255#8) = some (0x12#8, [255#8]) ∧ (Instr.badCommand 0 0xFF#8).wellFormed = true ∧
    encodeFrame (.badCommand 0 0xFF#8) = some (0xFF#8, []) := by decide
theorem witness_PortStateRefuses :
    framePort (.detach 1) = some 1 ∧ (Instr.detach 1).wellFormed = true ∧ accessOf (.detach 1) = some .session ∧
    frameReady 1 (part 1#4 .running) = true ∧
    portCheck .session ((part 1#4 .running).port 1).pstate = some .notAttached := by decide

/-- Port 1 takes frames while a claim of its TAKE is unanswered. -/
theorem witness_CommandWaitsForPrevious :
    framePort (.hold 1) = some 1 ∧ (Instr.hold 1).wellFormed = true ∧ takesFrames claiming 1 = true ∧
    claiming.released = false ∧ portFree claiming 1 = false := by decide
set_option maxRecDepth 10000 in
theorem witness_LinkRows :
    takesFrames run4 1 = true ∧ [3#8].length = (argCount 0x12#8).getD 0 ∧ 0x12#8 ≠ checkByte (0x12#8 :: [3#8]) ∧
    frameReady 1 run4 = true ∧ argCount 0x05#8 = none ∧ (run4.port 1).inReset = false := by decide

set_option maxRecDepth 10000 in
theorem witness_LinkRows_bytes :
    takesFrames (after (.pnrstAssert 1) run4) 1 = false ∧ (run4.port 1).frame = none ∧
    takesFrames (assembling []) 1 = true ∧ ((assembling []).port 1).frame = some (.assembling []) ∧
    [] ++ [0x12#8] = 0x12#8 :: [] ∧ ([] : List Byte).length ≤ (argCount 0x12#8).getD 0 ∧
    [0x12#8] ++ [3#8] = 0x12#8 :: [3#8] ∧ [3#8].length ≤ (argCount 0x12#8).getD 0 ∧
    [0x12#8, 3#8] = 0x12#8 :: [3#8] ∧ [3#8].length = (argCount 0x12#8).getD 0 ∧
    0x11#8 = checkByte (0x12#8 :: [3#8]) ∧ 0x12#8 ≠ checkByte (0x12#8 :: [3#8]) ∧
    ((answering 0).port 1).frame = some (.answering
      { command := [0x13#8, 0#8], response := [0#8, 0x42#8], awaiting := false, clocked := 0 }) ∧
    1 < [0#8, 0x42#8].length ∧ [0#8, 0x42#8].length < 3 := by decide
theorem witness_PowerUpValues : (3#3).toNat = (3 : Port).val ∧ 4 ≤ (4#3).toNat ∧ 4 ≤ (7#3).toNat := by decide
theorem witness_ChipResetHoldsThePart :
    run4.crst = false ∧ ({ run4 with crst := true } : State).crst = true ∧ run4.released = false ∧ run4.attn = 0#4 ∧
    actsInChipReset (.hold 1) = false := by decide
theorem witness_ChipResetEnds :
    ({ run4 with crst := true } : State).crst = true ∧ (3#3).toNat = (3 : Port).val ∧ 4 ≤ (4#3).toNat := by decide
theorem witness_PortReset :
    run4.crst = false ∧ (run4.port 3).pstate = .attached ∧ ((part 1#4 .running).port 3).pstate ≠ .attached ∧
    ((after (.pnrstAssert 3) run4).port 3).inReset = true := by decide
theorem witness_RawLevelChanges :
    let timed := run4.setLine 31 { raw := true, settled := false, timer := some 30#32, image := false }
    run4.crst = false ∧ (run4.line 31).raw ≠ true ∧ (run4.line 31).timer = none ∧
    (run4.src (sourceOfLine 31)).routing.kind = .line .rise 2 ∧ (2 : Fin 16) ≠ 0 ∧
    ((level12 false).line 12).raw ≠ true ∧ ((level12 false).line 12).timer = none ∧
    ((level12 false).src (sourceOfLine 12)).routing.kind = .line .high 0 ∧
    (timed.line 31).raw ≠ false ∧ (timed.line 31).timer ≠ none ∧
    (timed.src (sourceOfLine 31)).routing.kind = .line .rise 2 := by decide
theorem witness_SettleExpiry :
    let s := { run4.setLine 31 { raw := true, settled := false, timer := some 4#32, image := true } with time := 4#32 }
    s.crst = false ∧ (s.line 31).timer = some 4#32 ∧ reached s.time 4#32 = true ∧
    (s.src (sourceOfLine 31)).routing.kind = .line .rise 2 ∧ (s.line 0).timer = none ∧
    reached ({ s with time := 3#32 } : State).time 4#32 = false := by decide
theorem witness_LineReports :
    run4.crst = false ∧ (run4.src (sourceOfLine 31)).routing.kind = .line .rise 2 := by decide
theorem witness_OccurrenceCounted :
    let full := run4.setSrc 31 { record routing5 .active with pending := 255, firstStamp := some 1#32 }
    let standing := run4.setSrc 0
      { record shared .waiting with pending := 255, firstStamp := some 1#32, slotRequest := some 0 }
    run4.crst = false ∧ (run4.src (sourceOfLine 31)).state = .off ∧ (full.src (sourceOfLine 31)).pending ≤ 255 ∧
    (full.src (sourceOfLine 31)).state = .active ∧ (standing.src (sourceOfLine 0)).state = .waiting ∧
    (standing.src (sourceOfLine 0)).pending ≤ 255 ∧ (standing.src (sourceOfLine 0)).slotRequest ≠ none ∧
    ((stop4.setSrc 0 (record routing5 .idle)).src (sourceOfLine 0)).state = .idle ∧ stop4.runState = .stopped := by decide
theorem witness_DirectAndBroadcastFormation :
    let i := sourceOfLine 5
    let r := { record routing5 .waiting with pending := 255, firstStamp := some 1#32 }
    let s := run4.setSrc 5 r
    let b := run4.setSrc 5 (record broadcast .idle)
    s.crst = false ∧ s.runState = .running ∧ (s.src i).state = .waiting ∧ (s.src i).slotRequest = none ∧
    (s.src i).pending ≤ 255 ∧ (s.src i).routing.kind = .line .rise 2 ∧ (s.src i).routing.mode = .direct ∧
    (s.src i).routing.targets = onePort 1 ∧ seen s 1 ∧ ¬ seen ((part 0xD#4 .running).setSrc 5 r) 1 ∧
    ¬ seen { s with inFlight := [.attachReport 1] } 1 ∧ (s.src i).routing.fallback = some 2 ∧
    seen ((part 0xD#4 .running).setSrc 5 r) 2 ∧ ¬ seen ((part 1#4 .running).setSrc 5 r) 2 ∧
    (b.src i).state = .idle ∧ (b.src i).routing.mode = .broadcast ∧
    (∀ q, portIn q 6#4 = true ↔ portIn q (b.src i).routing.targets = true ∧ seen b q) ∧ 6#4 ≠ 0#4 ∧
    (∀ q, portIn q (b.src i).routing.targets = true → ¬ seen (part 9#4 .running) q) := by unfold seen; decide
theorem witness_SharedFormation :
    let i := sourceOfLine 5
    let s := run4.setSrc 5 { record shared .waiting with pending := 255, firstStamp := some 1#32 }
    s.crst = false ∧ s.runState = .running ∧ (s.src i).state = .waiting ∧ (s.src i).slotRequest = none ∧
    (s.src i).pending ≤ 255 ∧ (s.src i).routing.kind = .line .rise 2 ∧ (s.src i).routing.mode = .shared ∧
    (∃ q, portIn q (s.src i).routing.targets = true ∧ seen s q) ∧
    (if (s.src i).pending = 0 then some s.time else (s.src i).firstStamp) = some 1#32 ∧
    (∀ q, portIn q (s.src i).routing.targets = true → ¬ seen (part 8#4 .running) q) ∧
    (s.src i).routing.fallback = some 3 ∧ seen (part 8#4 .running) 3 ∧ ¬ seen (part 4#4 .running) 3 := by
  unfold seen; decide
theorem witness_AttemptRounds :
    let s := run4.setSrc 5 { record routing5 .waiting with pending := 1, firstStamp := some 1#32 }
    (Instr.runReport = .runReport ∨ ∃ p, Instr.runReport = .attachReport p) ∧ s.crst = false ∧
    (∀ i, (s.src i).state = .waiting → (s.src i).batch = none) ∧ stop4.runState = .stopped ∧
    (s.src 5).state = .waiting ∧ s.runState = .running ∧ (s.src 5).slotRequest = none ∧
    pendingCount (s.src 5) ≠ 0 ∧ (s.src 6).state ≠ .waiting ∧ portIn 1 (s.src 5).routing.targets = true ∧
    (s.src 5).routing.fallback = some 2 ∧ portIn 3 (s.src 5).routing.targets = false ∧
    (s.src 5).routing.fallback ≠ some 3 := by decide
theorem witness_AttemptRounds_named :
    ∀ p, Instr.attachReport 1 = .attachReport p → portIn p routing5.targets = true ∨ routing5.fallback = some p := by
  rintro p ⟨⟩; decide

/-- Source 5 with the given batch, in a part where every port is ATTACHED. -/
def withBatch (s : State) (b : Batch) : State := s.setSrc 5 (active b)

theorem witness_CopyReports :
    let s := withBatch run4 (batchOf1 .direct #v[.noCopy, .owed, .noCopy, .queued])
    s.crst = false ∧ (s.src 5).batch = some (batchOf1 .direct #v[.noCopy, .owed, .noCopy, .queued]) ∧
    (batchOf1 .direct #v[.noCopy, .owed, .noCopy, .queued]).copy 1 = .owed ∧
    (batchOf1 .direct #v[.noCopy, .owed, .noCopy, .queued]).copy 3 = .queued ∧ (run4.src 5).batch = none := by decide
theorem witness_CopyReports_noCopy : ∀ b, (run4.src 5).batch = some b → b.ref = 0 → b.copy 1 = .noCopy := by
  intro b h
  exact absurd ((show (run4.src 5).batch = none by decide).symm.trans h) (by simp)
theorem witness_DoneReportEndsBatch :
    let b := batchOf1 .broadcast #v[.noCopy, .inService, .done, .queued]
    let c := batchOf1 .direct #v[.noCopy, .inService, .noCopy, .done]
    let s := withBatch stop4 c
    let w : PoolWord := { word := 1#16, raiser := 0, stamp := 0#32 }
    let soft := stop4.setSrc 47 { record routing34 .active with batch := some c, words := [w, w] }
    let d := stop4.setSrc 5 { active c with state := .draining, enable := false }
    s.crst = false ∧ (s.src 5).batch = some c ∧ c.copy 1 = .inService ∧ (s.src 5).state = .active ∧
    outstanding (b.copy 3) = true ∧ (∀ q, q ≠ 1 → c.copy q = .noCopy ∨ c.copy q = .done) ∧ c.offer = none ∧
    (s.src 5).slotRequest = none ∧ 5 = sourceOfLine 5 ∧ (s.src 5).routing.kind = .line .rise 2 ∧ (s.src 5).words = [] ∧
    (s.src 5).pending = 0 ∧ s.runState = .stopped ∧ 32 ≤ (47 : SourceId).val ∧
    (soft.src 47).routing.kind = .soft 3 5#4 ∧ (soft.src 47).words = w :: [w] ∧ (d.src (sourceOfLine 5)).batch = some c ∧
    (d.src (sourceOfLine 5)).state = .draining ∧ (∀ q, q ≠ 1 → c.copy q ≠ .inService) ∧
    (∀ q, q ≠ 1 → (batchOf1 .direct #v[.noCopy, .inService, .noCopy, .noCopy]).copy q ≠ .done) := by decide
theorem witness_WithdrawalReturns :
    let b := batchOf1 .direct #v[.noCopy, .queued, .noCopy, .noCopy]
    let c := batchOf1 .broadcast #v[.queued, .owed, .noCopy, .noCopy]
    let s := withBatch stop4 b
    s.crst = false ∧ (s.src 5).batch = some b ∧ (s.src 5).state = .active ∧ b.form = .direct ∧ b.copy 1 = .queued ∧
    s.runState = .stopped ∧ (s.src 5).routing.kind = .line .rise 2 ∧ c.form = .broadcast ∧ c.copy 1 = .owed ∧
    outstanding (c.copy 0) = true ∧ (batchOf1 .shared #v[.noCopy, .offered, .noCopy, .noCopy]).form = .shared := by decide
theorem witness_RevokedReports :
    let b := batchOf1 .shared #v[.noCopy, .inService, .noCopy, .noCopy]
    let s := run4.setSrc 5 { active b with routing := shared }
    let d := batchOf1 .direct #v[.noCopy, .inService, .noCopy, .noCopy]
    let c := batchOf1 .broadcast #v[.queued, .inService, .done, .noCopy]
    s.crst = false ∧ (s.src 5).batch = some b ∧ b.copy 1 = .inService ∧ (s.src 5).state = .active ∧ b.form = .shared ∧
    portIn 0 (s.src 5).routing.targets = true ∧ (s.port 0).pstate = .attached ∧ portIn 0 (withPort b.excluded 1) = false ∧
    (∀ q, portIn q (s.src 5).routing.targets = true → ((part 0xE#4 .running).port q).pstate = .attached →
      portIn q (withPort b.excluded 1) = true) ∧ (s.src 5).routing.fallback = some 3 ∧
    ((part 0xE#4 .running).port 3).pstate = .attached ∧ portIn 3 (withPort b.excluded 1) = false ∧ d.form = .direct ∧
    ((withBatch stop4 d).src 5).routing.kind = .line .rise 2 ∧ c.form = .broadcast ∧ c.copy 1 = .inService ∧
    outstanding (c.copy 0) = true := by decide

/-- The batch of a source is discarded where no target can have it and the fallback, port 3, is not ATTACHED; for a line source
and for a soft one, and the last copy of a BROADCAST batch. -/
theorem witness_RevokedReports_ended :
    let b := batchOf1 .shared #v[.noCopy, .inService, .noCopy, .noCopy]
    let c := batchOf1 .broadcast #v[.noCopy, .inService, .done, .noCopy]
    let w : PoolWord := { word := 1#16, raiser := 0, stamp := 0#32 }
    let s := (part 2#4 .running).setSrc 5 { active b with routing := shared }
    let soft := (part 2#4 .stopped).setSrc 47
      { record { shared with kind := .soft 3 5#4 } .active with batch := some b, words := [w, w] }
    let last := withBatch stop4 c
    (∀ q, portIn q (s.src 5).routing.targets = true → (s.port q).pstate = .attached →
      portIn q (withPort b.excluded 1) = true) ∧
    (s.src 5).routing.fallback = some 3 ∧ (s.port 3).pstate ≠ .attached ∧ b.offer = none ∧
    (s.src 5).slotRequest = none ∧ (s.src 5).routing.kind = .line .rise 2 ∧ (s.src 5).words = [] ∧
    (s.src 5).pending = 0 ∧ (soft.src 47).batch = some b ∧ (soft.src 47).routing.kind = .soft 3 5#4 ∧
    (soft.src 47).words = w :: [w] ∧ soft.runState = .stopped ∧
    (∀ q, portIn q (soft.src 47).routing.targets = true → (soft.port q).pstate = .attached →
      portIn q (withPort b.excluded 1) = true) ∧
    (last.src 5).batch = some c ∧ c.form = .broadcast ∧ c.copy 1 = .inService ∧
    (∀ q, q ≠ 1 → c.copy q = .noCopy ∨ c.copy q = .done) ∧ c.offer = none ∧ (last.src 5).slotRequest = none ∧
    5 = sourceOfLine 5 ∧ (last.src 5).routing.kind = .line .rise 2 ∧ (last.src 5).words = [] ∧
    (last.src 5).pending = 0 ∧ (last.src 5).state = .active := by decide
theorem witness_OfferReports :
    offered5.crst = false ∧ (offered5.src 5).batch.map (·.copy 1) = some .offered := by decide
theorem witness_OfferReports_none :
    let b := { batchOf1 .shared #v[.offered, .offered, .noCopy, .noCopy] with offer := some 0 }
    (offered5.src 5).batch = some b ∧ b.ref = 0 ∧ b.copy 3 = .noCopy ∧
    ∀ b', (run4.src 5).batch = some b' → b'.ref = 0 → b'.copy 1 = .noCopy :=
  ⟨by decide, rfl, by decide, witness_CopyReports_noCopy⟩
theorem witness_ExpiryReports :
    let b := { batchOf1 .shared #v[.offered, .offered, .noCopy, .noCopy] with offer := some 0 }
    offered5.crst = false ∧ (offered5.src 5).batch = some b ∧ b.ref = 0 ∧ b.offer = some 0 ∧
    (offered5.src 5).routing.fallback = some 3 ∧ b.form = .shared ∧ (offered5.src 5).slotRequest = none ∧
    (offered5.src 5).routing.kind = .line .rise 2 ∧ (offered5.src 5).words = [] ∧ (offered5.src 5).pending = 0 ∧
    b.ref ≠ 7 := by decide
theorem witness_SlotGrants :
    let r := { record shared .waiting with pending := 1, firstStamp := some 9#32, slotRequest := some 0 }
    let s := run4.setSrc 5 r
    s.crst = false ∧ (s.src 5).slotRequest = some 0 ∧ (s.src 5).state = .waiting ∧ s.runState = .running ∧
    pendingCount (s.src 5) ≠ 0 ∧ (∀ q, portIn q 3#4 = true ↔ portIn q (s.src 5).routing.targets = true ∧ seen s q) ∧
    3#4 ≠ 0#4 ∧ (∀ q, portIn q (s.src 5).routing.targets = true → ¬ seen ((part 8#4 .running).setSrc 5 r) q) ∧
    stop4.runState = .stopped ∧ (run4.src 5).slotRequest ≠ some 0 := by unfold seen; decide
theorem witness_SlotGrants_reOffer :
    let b := { batchOf1 .shared #v[.noCopy, .noCopy, .noCopy, .noCopy] with excluded := 2#4 }
    let r := { active b with routing := shared, slotRequest := some 0 }
    let s := run4.setSrc 5 r
    let gone := (part 8#4 .running).setSrc 5 r
    (s.src 5).slotRequest = some 0 ∧ (s.src 5).batch = some b ∧
    (∀ q, portIn q 1#4 = true ↔ portIn q (s.src 5).routing.targets = true ∧ (s.port q).pstate = .attached ∧
      portIn q b.excluded = false) ∧ 1#4 ≠ 0#4 ∧
    (∀ q, portIn q 0#4 = true ↔ portIn q (gone.src 5).routing.targets = true ∧ (gone.port q).pstate = .attached ∧
      portIn q b.excluded = false) ∧ (gone.src 5).routing.fallback = some 3 ∧ (gone.port 3).pstate = .attached ∧
    portIn 3 b.excluded = false ∧ ((part 4#4 .running).port 3).pstate ≠ .attached ∧ b.form = .shared ∧ b.offer = none ∧
    (s.src 5).routing.kind = .line .rise 2 ∧ (s.src 5).words = [] ∧ (s.src 5).pending = 0 ∧ b.ref ≠ 7 := by decide

/-- Every slot of the Offer List is taken, and a request waits. -/
def crowded : State :=
  { run4 with
    offers := Vector.replicate 16 (.reserved 5 .first 0)
    requests := [{ source := 6, kind := .first, req := 0, priority := 3, stamp := 9#32 }] }

theorem witness_SlotRequests :
    run4.crst = false ∧ run4.offer 0 = .free ∧ (∀ j : SlotId, j < 0 → run4.offer j ≠ .free) ∧
    ((crowded.setOffer 15 .free).offer 15 = .free) ∧
    (∀ j : SlotId, j < 15 → (crowded.setOffer 15 .free).offer j ≠ .free) ∧ (∀ k, crowded.offer k ≠ .free) := by decide
theorem witness_SlotArbiter :
    bestRequest 0#32 crowded.requests = some { source := 6, kind := .first, req := 0, priority := 3, stamp := 9#32 } ∧
    crowded.requests ≠ [] ∧ run4.requests = [] ∧ (∀ k, crowded.offer k ≠ .free) ∧
    (crowded.setOffer 15 .free).offer 15 = .free ∧
    (∀ j : SlotId, j < 15 → (crowded.setOffer 15 .free).offer j ≠ .free) := by decide
theorem witness_GrantAnswers : crowded.crst = false ∧ crowded.offer 15 = .reserved 5 .first 0 ∧ run4.offer 0 = .free := by
  decide

/-- The one offer of `offered5` stands in slot 0. -/
theorem offered5_only {j : SlotId} {o : Offer} (h : offered5.offer j = .opened o) : j = 0 := by
  by_contra hj
  have : ∀ j : SlotId, j ≠ 0 → offered5.offer j = .free := by decide
  rw [this j hj] at h
  cases h

theorem witness_ClaimsGrantedOrLost :
    offered5.crst = false ∧ offered5.offer 0 = .opened offer5 ∧ offer5.source = 5 ∧ offer5.ref = 0 ∧ offer5.round = 1 ∧
    portIn 1 offer5.candidates = true ∧ portIn 2 offer5.candidates = false ∧
    ∀ j o', offered5.offer j = .opened o' → o'.source = 5 → j = 0 :=
  ⟨by decide, by decide, rfl, rfl, rfl, by decide, by decide, fun _ _ h _ => offered5_only h⟩
theorem witness_ClaimsLost : ∀ k o, run4.offer k = .opened o →
    ¬ (o.source = 5 ∧ o.ref = 0 ∧ o.round = 1 ∧ portIn 1 o.candidates = true) := by
  intro k o h
  have : ∀ k, run4.offer k = .free := by decide
  rw [this k] at h
  cases h
theorem witness_CandidateReports :
    offered5.crst = false ∧ offered5.offer 0 = .opened offer5 ∧ portIn 1 offer5.owed = true ∧
    portIn 1 offer5.candidates = true ∧ withoutPort offer5.candidates 1 ≠ 0#4 ∧
    ∀ j o', offered5.offer j = .opened o' → o'.source = offer5.source → j = 0 :=
  ⟨by decide, by decide, by decide, by decide, by decide, fun _ _ h _ => offered5_only h⟩
theorem witness_OffersClose :
    let s := { offered5 with time := 20000#32 }
    s.crst = false ∧ s.offer 0 = .opened offer5 ∧ reached s.time offer5.deadline = true ∧
    (∀ j o', s.offer j = .opened o' → o'.source = offer5.source → j = 0) ∧
    ({ offer5 with candidates := 8#4 } : Offer).candidates = onePort 3 ∧
    (s.src offer5.source).routing.fallback = some 3 ∧ (s.port 3).pstate = .attached ∧
    (∀ b, (s.src offer5.source).batch = some b → b.ref = offer5.ref → portIn 3 b.excluded = false) := by
  refine ⟨by decide, by decide, by decide, fun _ _ h _ => offered5_only h, by decide, by decide, by decide, fun b h _ => ?_⟩
  have : (offered5.src 5).batch = some { batchOf1 .shared #v[.offered, .offered, .noCopy, .noCopy] with offer := some 0 } := by
    decide
  cases this.symm.trans h
  decide

/-- Sixteen entries of sources 16 to 31. -/
def sixteen : List Placement := (List.finRange 16).map fun k => entryOf ⟨16 + k.val, by omega⟩ 4

theorem witness_PlacementArrives :
    run4.crst = false ∧ (run4.port 1).pstate = .attached ∧
    ((run4.unit 1).owed.filter (·.entry.id.source ≠ (entry .direct).id.source)) = [] ∧
    (sixteen.tail.filter (·.id.source ≠ (entry .direct).id.source)).length = 15 ∧
    16 ≤ (sixteen.filter (·.id.source ≠ (entry .direct).id.source)).length ∧
    (({ entry := entryOf 6 4, since := 1#32 } : Owed) ::
      []).filter (·.entry.id.source ≠ (entry .direct).id.source) ≠ [] ∧
    ((entry (.offer 1) :: sixteen.tail).filter (·.id.source ≠ (entry .direct).id.source)).length < 16 ∧
    ((part 1#4 .running).port 1).pstate ≠ .attached := by decide
theorem witness_WithdrawalRequests :
    run4.crst = false ∧ (∃ e ∈ [entry .direct], e.id = (entry .direct).id) ∧
    (∀ e ∈ [entry (.offer 4)], e.id ≠ (entry (.offer 1)).id) := by decide
theorem witness_QueueOrderAndAdmission :
    let d := { powerUpUnit with entries := [entryOf 6 4, entryOf 7 0, entryOf 8 7], mask := 0x81#8 }
    let n : Notice := { kind := .peer, count := 1, subject := .port 0, stamp := 0#32 }
    ({ d with notices := [n] } : DeliveryUnit).notices = n :: [] ∧ d.notices = [] ∧
    (∀ e ∈ ({ d with mask := 0#8 } : DeliveryUnit).entries, priorityIn e.priority 0#8 = false) ∧
    d.entries = [entryOf 6 4] ++ entryOf 7 0 :: [entryOf 8 7] ∧ priorityIn (entryOf 7 0).priority d.mask = true ∧
    (∀ x ∈ [entryOf 6 4], priorityIn x.priority d.mask = true → (entryOf 7 0).priority < x.priority) ∧
    (∀ x ∈ [entryOf 8 7], priorityIn x.priority d.mask = true → (entryOf 7 0).priority ≤ x.priority) ∧
    bestOwed 9#32 [{ entry := entryOf 6 4, since := 1#32 }] = some { entry := entryOf 6 4, since := 1#32 } ∧
    sixteen.tail.length < 16 ∧ sixteen.length ≤ 16 := by decide
theorem witness_NoticePostings :
    let n : Notice := { kind := .peer, count := 255, subject := .port 0, stamp := 0#32 }
    let s := run4.setUnit 1 { powerUpUnit with notices := [n] }
    run4.crst = false ∧ ((part 1#4 .running).port 1).pstate ≠ .attached ∧ (s.port 1).pstate = .attached ∧
    (∀ n ∈ (s.unit 1).notices, n.kind ≠ .table) ∧ (s.unit 1).notices = [] ++ n :: [] ∧ n.kind = .peer ∧
    (∀ x ∈ ([] ++ [] : List Notice), x.kind ≠ .peer) := by decide

/-- Port 1 holds one delivery, in slot 3. -/
def held3 : State := { run4.setUnit 1 (powerUpUnit.setSlot 3 (.held (delivery 255#8 (some 5#32)))) with time := 5#32 }

theorem held3_only {j : ServiceSlotId} {r : ServiceRecord} (h : (held3.unit 1).slot j = .held r) : j = 3 := by
  by_contra hj
  have : ∀ j : ServiceSlotId, j ≠ 3 → (held3.unit 1).slot j = .free := by decide
  rw [this j hj] at h
  cases h

theorem witness_DeliveriesEndWithoutDone :
    held3.crst = false ∧ (held3.unit 1).slot 3 = .held (delivery 255#8 (some 5#32)) ∧
    (delivery 255#8 (some 5#32)).deadline = some 5#32 ∧ reached held3.time 5#32 = true ∧
    (held3.port 1).pstate = .attached ∧ reached 4#32 5#32 = false ∧ (delivery 1#8 none).deadline = none ∧
    (∀ j r', (held3.unit 1).slot j = .held r' → r'.source = 5 → r'.ref = 0 → j = 3) ∧
    (∀ k r, (claiming.unit 1).slot k = .held r → ¬ (r.source = 5 ∧ r.ref = 0)) :=
  ⟨by decide, by decide, rfl, by decide, by decide, by decide, rfl, fun _ _ h _ _ => held3_only h,
    fun k r h => by
      have : ∀ k, (claiming.unit 1).slot k = if k = 0 then .reserved (entry (.offer 1)).id else .free := by decide
      rw [this k] at h
      split at h <;> cases h⟩
theorem witness_SequenceNumberAssigned :
    ({ powerUpUnit with revoked := [1#8, 2#8, 3#8, 4#8] } : DeliveryUnit).revoked.length ≤ 4 := by decide

/-- The claim that waits in `claiming`. -/
def claim1 : Claim := { entry := entry (.offer 1), slot := 0, removal := false, ended := false }

theorem witness_ClaimAnswers :
    claiming.crst = false ∧ claim1.ended = false ∧ claim1.removal = false ∧ claim1.entry.id.kind = .offer 1 ∧
    ∃ f, takeAwaits 1 claim1 f claiming :=
  ⟨by decide, rfl, rfl, rfl, { command := commandBytes (.take 1), response := notReadyFill 11, awaiting := true, clocked := 0 },
    by decide, by decide, by decide, rfl, by decide⟩
theorem witness_ClaimAnswers_marked :
    let s := after (.removalRequest 1 5 0) { claiming with inFlight := [] }
    s.crst = false ∧ ({ claim1 with removal := true } : Claim).removal = true ∧
    ∃ f, takeAwaits 1 { claim1 with removal := true } f s :=
  ⟨by decide, rfl, { command := commandBytes (.take 1), response := notReadyFill 11, awaiting := true, clocked := 0 }, by decide,
    by decide, by decide, rfl, by decide⟩
theorem witness_ClaimAnswers_ended :
    let s := after (.evict 0 1#8) { claiming with inFlight := [] }
    s.crst = false ∧ ({ claim1 with ended := true } : Claim).ended = true ∧
    ∃ f, takeAwaits 1 { claim1 with ended := true } f s :=
  ⟨by decide, rfl, { command := commandBytes (.take 1), response := notReadyFill 11, awaiting := true, clocked := 0 }, by decide,
    by decide, by decide, rfl, by decide⟩
theorem witness_commands_shown :
    frameReady 3 run4 = true ∧ (run4.port 3).pstate ≠ .evicted ∧ (run4.port 3).pstate = .attached ∧
    16 ≤ (16#8).toNat ∧ 48 ≤ (48#8).toNat ∧ 48 ≤ (255#8).toNat := by decide
theorem witness_PeekAndRepeat :
    ((entry .direct).fields).payload = none ∧
    ({ (entry .direct).fields with payload := some { word := 0xFFFF#16, raiser := 3 } } : DeliveryFields).payload =
      some { word := 0xFFFF#16, raiser := 3 } := by decide
theorem witness_SessionsBeginAndEnd :
    frameReady 3 run4 = true ∧ (run4.port 3).pstate = .attached ∧ frameReady 3 (part 1#4 .running) = true ∧
    ((part 1#4 .running).port 3).pstate = .detached := by decide
theorem witness_TakeHandsOver :
    let n : Notice := { kind := .peer, count := 1, subject := .port 0, stamp := 0#32 }
    let d := { powerUpUnit with entries := [entry .direct] }
    let h : ServiceSlot := .held (delivery 1#8 none)
    let full := { d with slots := #v[h, h, h, h] }
    let last := { d with slots := #v[h, h, h, .free] }
    frameReady 1 run4 = true ∧ (run4.port 1).pstate = .attached ∧
    ({ d with notices := [n] } : DeliveryUnit).notices = n :: [] ∧ firstVisible powerUpUnit = none ∧
    firstVisible full = some (.entry (entry .direct)) ∧ (∀ k, full.slot k ≠ .free) ∧
    firstVisible last = some (.entry (entry .direct)) ∧ last.slot 3 = .free ∧ (∀ j, j < 3 → last.slot j ≠ .free) ∧
    (entry .direct).id.kind = .direct ∧ (entry (.offer 4)).id.kind = .offer 4 ∧
    firstVisible { last with entries := [entry (.offer 4)] } = some (.entry (entry (.offer 4))) := by decide
theorem witness_DoneCompletesDelivery :
    frameReady 1 held3 = true ∧ (held3.port 1).pstate = .attached ∧
    (held3.unit 1).slot 3 = .held (delivery 255#8 (some 5#32)) ∧ (delivery 255#8 (some 5#32)).seq = 255#8 ∧
    (∀ j r', (held3.unit 1).slot j = .held r' → r'.seq = 255#8 → j = 3) ∧
    [1#8, 255#8, 2#8] = [1#8] ++ 255#8 :: [2#8] ∧ 255#8 ∉ [1#8] ∧ 0#8 ∉ (held3.unit 1).revoked :=
  ⟨by decide, by decide, by decide, rfl, fun _ _ h _ => held3_only h, rfl, by decide, by decide⟩
theorem witness_DoneUnknown : ∀ k r, (run4.unit 1).slot k = .held r → r.seq ≠ 0#8 := by
  intro k r h
  have : ∀ k, (run4.unit 1).slot k = .free := by decide
  rw [this k] at h
  cases h
theorem witness_UnitSettings :
    frameReady 1 run4 = true ∧ (run4.port 1).pstate = .attached ∧ 2 ≤ (2#8).toNat ∧ (4095#16).toNat ≤ 4095 ∧
    4096 ≤ (4096#16).toNat := by decide
theorem witness_RaiseCommand :
    let s := soft34 .idle []
    let w : PoolWord := { word := 0#16, raiser := 0, stamp := 0#32 }
    frameReady 0 s = true ∧ (s.port 0).pstate = .attached ∧ (s.src 34).routing.kind = .soft 3 5#4 ∧
    portIn 0 5#4 = true ∧ (s.src 34).state = .idle ∧ (s.src 34).words.length < 3 ∧ s.poolFree ≠ 0 ∧
    s.runState = .running ∧ (s.src 34).slotRequest = none ∧ (s.src 34).batch = none ∧
    (soft34 .waiting [w, w]).poolFree ≠ 0 ∧ ((soft34 .active [w, w]).src 34).words.length < 3 ∧
    ((soft34 .active [w, w]).src 34).state = .active ∧
    stop4.runState = .stopped ∧ (31#8).toNat < 32 ∧ 48 ≤ (48#8).toNat ∧ sourceOf 34#8 = some 34 ∧
    portIn 1 5#4 = false ∧ ((soft34 .off []).src 34).state = .off ∧
    3 ≤ ((soft34 .active [w, w, w]).src 34).words.length ∧ ({ s with poolFree := 0 } : State).poolFree = 0 := by decide
theorem witness_RaiseCommand_kinds : ∀ i, kindLaw i (run4.src i) := by
  have h : ∀ i : SourceId, run4.src i = freshSource (powerUpRouting i) 0 0 := by decide
  intro i
  rw [h]
  by_cases hi : i.val < 32 <;> simp [kindLaw, freshSource, powerUpRouting, lineRouting, softRouting, hi]
  omega
theorem witness_SourceCommandChecks :
    let locked := run4.setSrc 47 { freshSource softRouting 0 0 with lock := true, owner := some 1 }
    frameReady 1 run4 = true ∧ (run4.port 1).pstate = .attached ∧ 48 ≤ (48#8).toNat ∧ sourceOf 47#8 = some 47 ∧
    (locked.src 47).lock = true ∧ (owned5.src 5).lock = false ∧ (owned5.src 5).owner ≠ some 2 ∧
    (owned5.src 5).owner ≠ none ∧ (owned5.src 5).owner = some 1 ∧ (run4.src 47).owner = none := by decide
/-- A block at the upper ends of its ranges. -/
def topBlock : RouteBlock :=
  { mode := 3#8, targets := 15#8, fallback := 63#8, priority := 7#8, kindA := 4#8, kindB := 15#8 }

theorem witness_RoutingWritten :
    frameReady 1 owned5 = true ∧ (owned5.port 1).pstate = .attached ∧ sourceOf 5#8 = some 5 ∧
    (owned5.src 5).lock = false ∧ (owned5.src 5).owner = some 1 ∧ (owned5.src 5).state = .off ∧
    ((after (.enable 1 5#8) owned5).src 5).state ≠ .off := by decide
theorem witness_RoutingWritten_valid :
    validBlock 5 topBlock ∧ validBlock 5 { topBlock with mode := 1#8, targets := 8#8, fallback := 0#8 } ∧
    validBlock 47 { topBlock with kindA := 8#8, kindB := 0#8 } := by
  refine ⟨?_, ?_, ?_⟩ <;> unfold validBlock <;> decide
theorem witness_RoutingWritten_invalid :
    ¬ validBlock 5 { topBlock with priority := 8#8 } ∧ ¬ validBlock 47 { topBlock with kindA := 0#8 } ∧
    ¬ validBlock 5 { topBlock with mode := 1#8, targets := 8#8, fallback := 3#8 } ∧
    ¬ validBlock 5 { topBlock with targets := 16#8 } := by
  refine ⟨?_, ?_, ?_, ?_⟩ <;> unfold validBlock <;> decide
theorem witness_EnableAndDisable :
    let empty := run4.setSrc 31 { freshSource lineRouting 0 0 with owner := some 1 }
    let idle := run4.setSrc 5 { record routing5 .idle with owner := some 1 }
    let b := batchOf1 .direct #v[.noCopy, .queued, .noCopy, .noCopy]
    let served := batchOf1 .broadcast #v[.inService, .queued, .noCopy, .done]
    let d := run4.setSrc 5 { active b with state := .draining, owner := some 1 }
    frameReady 1 owned5 = true ∧ (owned5.port 1).pstate = .attached ∧ sourceOf 5#8 = some 5 ∧
    (owned5.src 5).lock = false ∧ (owned5.src 5).owner = some 1 ∧ (owned5.src 5).state = .off ∧
    (owned5.src 5).routing.targets ≠ 0#4 ∧ sourceOf 31#8 = some 31 ∧
    (empty.src 31).routing.targets = 0#4 ∧ (empty.src 31).state = .off ∧ (d.src 5).state = .draining ∧
    (idle.src 5).state = .idle ∧ (idle.src 5).batch = none ∧ (∀ q, b.copy q ≠ .inService) ∧
    sourceOf 40#8 = some 40 ∧ (draining40.src 40).owner = some 2 ∧ (draining40.src 40).lock = false ∧
    (draining40.src 40).state = .active ∧ (draining40.src 40).batch = some served ∧ served.copy 0 = .inService := by decide
theorem witness_RunControl :
    frameReady 1 run4 = true ∧ (run4.port 1).pstate = .attached ∧ run4.steering ≠ some 1 ∧ frameReady 0 run4 = true ∧
    run4.steering = some 0 ∧ 1#8 ≠ 0#8 ∧ 255#8 ≠ 0#8 := by decide
theorem witness_EvictTakesPortAway :
    frameReady 0 run4 = true ∧ (run4.port 0).pstate = .attached ∧ run4.steering = some 0 ∧ (3 : Port) ≠ 0 ∧
    (run4.port 3).pstate = .attached ∧ ((part 1#4 .running).port 3).pstate ≠ .attached ∧ 4 ≤ (4#8).toNat := by decide
theorem witness_SeizeSetsOwner :
    frameReady 0 owned5 = true ∧ (owned5.port 0).pstate = .attached ∧ owned5.steering = some 0 ∧
    sourceOf 5#8 = some 5 ∧ (owned5.src 5).lock = false ∧ ((after (.lock 1 5#8) owned5).src 5).lock = true ∧
    seizePortOf 4#8 = none ∧ seizePortOf 0xFF#8 = some none ∧ (owned5.src 5).owner ≠ none ∧ seizePortOf 1#8 = some (some 1) ∧
    (owned5.src 5).owner = some 1 ∧ 48 ≤ (48#8).toNat ∧ 4 ≤ (4#8).toNat ∧ 4#8 ≠ 0xFF#8 := by decide
theorem witness_TableResetClears :
    let b := batchOf1 .direct #v[.noCopy, .inService, .noCopy, .noCopy]
    let s := (withBatch run4 b).setSrc 6 { freshSource lineRouting 0 0 with lock := true, slotRequest := some 4 }
    frameReady 0 s = true ∧ (s.port 0).pstate = .attached ∧ s.steering = some 0 ∧ (s.src 6).lock = true ∧
    (s.src 5).lock = false ∧ (s.src 5).batch = some b ∧ b.copy 1 = .inService ∧ (s.src 5).state ≠ .off ∧
    ((run4.setSrc 6 { record shared .waiting with slotRequest := some 4 }).src 6).slotRequest = some 4 := by decide
theorem witness_TimeBaseTicks : ({ offered5 with time := 19999#32 } : State).crst = false := by decide

/-! The laws hold of a part in use, which then steps. -/

/-- Port 1 has an entry to take, with a delivery in service and a number revoked. -/
def busy : State := judgeAttn (run4.setUnit 1
  { powerUpUnit.setSlot 3 (.held (delivery 255#8 none)) with entries := [entry .direct, entryOf 6 3], revoked := [1#8] })

theorem busy_units : ∀ p, p ≠ 1 → busy.unit p = powerUpUnit := by decide
theorem witness_AttnLawKept : attnLaw busy ∧ busy.attn = 2#4 ∧ step busy = .next busy :=
  ⟨judgeAttn_attnLaw _, by decide, rfl⟩
theorem witness_UnitLawsKept : queuesLaw busy ∧ sequencesLaw busy ∧ step busy = .next busy := by
  refine ⟨fun p => ?_, fun p => ?_, rfl⟩
  · by_cases h : p = 1
    · subst h; unfold queueLaw; decide
    · rw [busy_units p h]; unfold queueLaw; decide
  · by_cases h : p = 1
    · subst h; unfold sequenceLaw; decide
    · rw [busy_units p h]; unfold sequenceLaw; decide

/-- Port 1 is evicted while its claim is in flight, and is no longer ATTACHED. -/
theorem witness_AbsentLawKept :
    let s := after (.evict 0 1#8) claiming
    absentLaw s ∧ (s.port 1).pstate ≠ .attached ∧ (s.unit 1).claims ≠ [] ∧
    step s = .next (after (.claim 1 5 0 1) s) := by
  refine ⟨fun p hp => ?_, by decide, by decide, rfl⟩
  have one : p = 1 := by
    have : ∀ q : Port, q ≠ 1 → ((after (.evict 0 1#8) claiming).port q).pstate = .attached := by decide
    by_contra h
    exact hp (this p h)
  subst one
  refine ⟨by decide, by decide, by decide, by decide, fun k r h => ?_, by decide⟩
  have : ∀ k, ((after (.evict 0 1#8) claiming).unit 1).slot k =
      if k = 0 then .reserved (entry (.offer 1)).id else .free := by decide
  rw [this k] at h
  split at h <;> cases h
theorem witness_OffersLawKept :
    let s := { offered5 with pending := [.offerAdmissionReport 5 1 1] }
    offersLaw s ∧ step s = .next (after (.offerAdmissionReport 5 1 1) offered5) := by
  refine ⟨fun k o h => ?_, rfl⟩
  have e := offered5_only h
  subst e
  have : offered5.offer 0 = .opened offer5 := by decide
  cases this.symm.trans h
  decide
theorem witness_LockedOwnedKept :
    let s := { owned5 with pending := [.lock 1 5#8] }
    lockedOwned (after (.lock 1 5#8) owned5) ∧ ((after (.lock 1 5#8) owned5).src 5).lock = true ∧ lockedOwned s ∧
    step s = .next (after (.lock 1 5#8) owned5) := by
  unfold lockedOwned
  exact ⟨by decide, by decide, by decide, rfl⟩
theorem witness_SourceAndPoolLawsKept : sourcesLaw formed5 ∧ poolLaw formed5 ∧
    step formed5 = .next (after (.placement 1 (entry .direct)) formed5) := by
  have h : ∀ i : SourceId, i ≠ 5 → formed5.src i = freshSource (powerUpRouting i) 0 0 := by decide
  refine ⟨fun i => ?_, by unfold poolLaw; decide, rfl⟩
  by_cases hi : i = 5
  · subst hi
    have hb : ∃ b, (formed5.src 5).batch = some b ∧ 1 ≤ b.count ∧ b.count ≤ 255 :=
      ⟨mapCopies (fun p c => if portIn p (onePort 1) then .owed else c)
        (newBatch (counted 1000#32 (record routing5 .idle)) .direct), by decide, by decide, by decide⟩
    have hk : (formed5.src 5).routing.kind = .line .rise 2 := by decide
    refine ⟨by unfold kindLaw; rw [hk]; decide, by unfold kindFieldsLaw; rw [hk]; decide, ?_⟩
    have hs : (formed5.src 5).state = .active := by decide
    unfold sourceLaw
    rw [hs]
    exact ⟨by decide, by decide, by decide, by decide, hb⟩
  · rw [h i hi]
    by_cases hl : i.val < 32
    · simp [kindLaw, kindFieldsLaw, sourceLaw, freshSource, powerUpRouting, lineRouting, hl]
    · simp [kindLaw, kindFieldsLaw, sourceLaw, freshSource, powerUpRouting, softRouting, hl]
      omega
theorem witness_RoutingFieldsKept :
    let s := after (.lock 1 5#8) owned5
    let block : RouteBlock := { mode := 3#8, targets := 6#8, fallback := 63#8, priority := 7#8, kindA := 4#8, kindB := 15#8 }
    (s.src 5).lock = true ∧ exec .timeBaseTick s = .next (after .timeBaseTick s) ∧
    ((after (.writeRoute 1 5#8 block) owned5).src 5).routing ≠ (owned5.src 5).routing := by
  exact ⟨by decide, rfl, by decide⟩

end Sys2Proof.Tests
end

section
/-! PROOFS. What a withdrawal request (R66) and a notice posting (R75) do to a Delivery Unit, and the statements about them. -/

namespace Sys2Proof.Machine

/-! ### Withdrawal requests (R63, R66) -/

/-- The arbiter's run over a unit just written: the unit left, and the reports sent. -/
theorem runAdmission_setUnit (p : Port) (d : DeliveryUnit) (s : State) :
    runAdmission p (s.setUnit p d) =
      (s.setUnit p (admissions s.time p d.owed.length d).1).send (admissions s.time p d.owed.length d).2 := by
  simp [runAdmission]

theorem takeWithdrawal_entry {p : Port} {id : EntryId} {s : State} (h : ∃ e ∈ (s.unit p).entries, e.id = id) :
    takeWithdrawal p id s =
      runAdmission p (s.setUnit p { s.unit p with entries := (s.unit p).entries.filter (·.id ≠ id) }) := by
  have found : (s.unit p).entries.any (·.id = id) = true := by simpa using h
  simp only [takeWithdrawal, found, if_true]

theorem takeWithdrawal_owed {p : Port} {id : EntryId} {s : State} (h : ∀ e ∈ (s.unit p).entries, e.id ≠ id) :
    takeWithdrawal p id s = s.setUnit p { s.unit p with owed := (s.unit p).owed.filter (·.entry.id ≠ id) } := by
  have absent : (s.unit p).entries.any (·.id = id) = false := by simpa using h
  simp only [takeWithdrawal, absent, Bool.false_eq_true, if_false]

/-- The row of WITHDRAWAL_REQUEST. -/
theorem exec_withdrawalRequest (p : Port) (id : EntryId) (s : State) :
    exec (.withdrawalRequest p id) s = eventStep (.withdrawalRequest p id) (takeWithdrawal p id) s := by rfl

/-- Settles O34, by whether an entry has the identity: with one, the act is a write of the unit and a run of the arbiter;
with none, a write of the owed list. -/
theorem withdrawalRequests : Obligations.WithdrawalRequests := by
  unfold Obligations.WithdrawalRequests
  intro p id s hc
  simp only [exec_withdrawalRequest]
  constructor
  · intro h
    exact event_onUnit hc ((takeWithdrawal_entry (s := s.arrive _) h).trans (runAdmission_setUnit p _ _))
  · intro h
    exact event_onUnit hc (by rw [takeWithdrawal_owed (s := s.arrive _) h]; simp)

/-! ### Notice postings (R75) -/

theorem addNotice_absent {now : Time} {kind : NoticeKind} {subject : Subject} {notices : List Notice}
    (h : ∀ n ∈ notices, n.kind ≠ kind) :
    addNotice now kind subject notices =
      notices ++ [{ kind := kind, count := 1, subject := subject, stamp := now }] := by
  have absent : notices.any (·.kind = kind) = false := by simpa using h
  simp only [addNotice, absent, Bool.false_eq_true, if_false]

/-- Notices of other kinds are left as they are by an addition in place. -/
theorem map_otherKinds {kind : NoticeKind} {notices : List Notice} (f : Notice → Notice)
    (h : ∀ n ∈ notices, n.kind ≠ kind) : notices.map (fun n => if n.kind = kind then f n else n) = notices :=
  (List.map_congr_left fun n hn => if_neg (h n hn)).trans (List.map_id' notices)

theorem addNotice_present {now : Time} {kind : NoticeKind} {subject : Subject} {earlier later : List Notice} {n : Notice}
    (hn : n.kind = kind) (h : ∀ x ∈ earlier ++ later, x.kind ≠ kind) :
    addNotice now kind subject (earlier ++ n :: later) =
      earlier ++ { n with count := min 255 (n.count + 1), subject := subject } :: later := by
  have found : (earlier ++ n :: later).any (·.kind = kind) = true := by simp [hn]
  simp only [addNotice, found, if_true, List.map_append, List.map_cons, if_pos hn]
  rw [map_otherKinds _ fun x hx => h x (List.mem_append_left _ hx),
    map_otherKinds _ fun x hx => h x (List.mem_append_right _ hx)]

theorem takeNotice_attached {p : Port} {s : State} (kind : NoticeKind) (subject : Subject)
    (h : (s.port p).pstate = .attached) :
    takeNotice p kind subject s =
      s.setUnit p { s.unit p with notices := addNotice s.time kind subject (s.unit p).notices } :=
  if_pos ((attached_iff s p).2 h)

theorem takeNotice_notAttached {p : Port} {s : State} (kind : NoticeKind) (subject : Subject)
    (h : (s.port p).pstate ≠ .attached) : takeNotice p kind subject s = s :=
  if_neg fun ha => h ((attached_iff s p).1 ha)

/-- The row of NOTICE_POSTING. -/
theorem exec_noticePosting (p : Port) (kind : NoticeKind) (subject : Subject) (s : State) :
    exec (.noticePosting p kind subject) s =
      eventStep (.noticePosting p kind subject) (takeNotice p kind subject) s := by rfl

/-- A posting taken at an ATTACHED port changes the unit's notices as `addNotice` says and sends nothing. -/
theorem noticePosting_attached {p : Port} {kind : NoticeKind} {subject : Subject} {s : State} {notices : List Notice}
    (hc : s.crst = false) (ha : (s.port p).pstate = .attached)
    (hn : addNotice s.time kind subject (s.unit p).notices = notices) :
    ∃ t, eventStep (.noticePosting p kind subject) (takeNotice p kind subject) s = .next t ∧
      t.unit p = { s.unit p with notices := notices } ∧ otherUnits p s t ∧
      eventDone (.noticePosting p kind subject) [] [.units] s t := by
  refine event_onUnit hc ?_
  rw [takeNotice_attached (s := s.arrive _) kind subject ha]
  simp [hn]

/-- Settles O36, by the port's state and by whether the unit holds a notice of the posted kind. -/
theorem noticePostings : Obligations.NoticePostings := by
  unfold Obligations.NoticePostings
  intro p kind subject s hc
  simp only [exec_noticePosting]
  refine ⟨fun hp => ?_, fun ha hnone => ?_, fun earlier n later ha hnotices hkind hothers => ?_⟩
  · exact event_sends hc (by rw [takeNotice_notAttached (s := s.arrive _) kind subject hp]; simp)
  · exact noticePosting_attached hc ha (addNotice_absent hnone)
  · exact noticePosting_attached hc ha (by rw [hnotices]; exact addNotice_present hkind hothers)

end Sys2Proof.Machine
end

section
/-! PROOFS. The check of a command against the state of its port (R125). -/

namespace Sys2Proof.Machine

/-- A command taken at once and refused at the port-state check, whatever its body would have done: of the state only the
port's record changes, and by the answer alone. -/
theorem frameStep_refused {c : Instr} {p : Port} {a : Access} {st : Status} {s : State} (body : Body)
    (h : frameReady p s = true) (hc : portCheck a (s.port p).pstate = some st) :
    ∃ t, frameStep c p a body s = .next t ∧ repliedWith c p (zeroAnswer c st) [] s t := by
  refine ⟨_, by rw [frameStep, takeCommand_refused h hc], by simp, fun q hq => ?_, judgeAttn_attnLaw _, ?_⟩
  · simp [State.setPort_port_ne, hq]
  · simp [sameBut_iff]

/-- A well-formed command that its port's state does not allow is refused with the status of its row in R125's table. -/
theorem refusedWith_of_portCheck {c : Instr} {p : Port} {a : Access} {st : Status} {s : State}
    (hp : framePort c = some p) (hw : c.wellFormed = true) (ha : accessOf c = some a) (h : frameReady p s = true)
    (hc : portCheck a (s.port p).pstate = some st) : refusedWith c p st s := by
  obtain ⟨row, body, hrow, hexec⟩ := exec_frame hp hw
  have hsame : row = a := Option.some.inj (hrow.symm.trans ha)
  subst hsame
  unfold refusedWith
  rw [hexec]
  exact frameStep_refused body h hc

/-- Settles O6: the refusal is that of the row of R125's table which `exec_frame` gives the command; the table is read off
row by row. -/
theorem portStateRefuses : Obligations.PortStateRefuses := by
  unfold Obligations.PortStateRefuses
  exact ⟨fun _ _ _ _ _ => refusedWith_of_portCheck, portCheck_any, rfl, rfl, rfl, portCheck_observation nofun,
    portCheck_observation nofun, rfl, rfl, portCheck_session rfl, rfl,
    fun _ => ⟨rfl, fun _ => rfl, fun _ => rfl, fun _ _ _ _ => rfl⟩⟩

end Sys2Proof.Machine
end

section
/-! PROOFS. The check byte of a frame's phases (R173). -/

namespace Sys2Proof.Machine

/-- R173's test of the bit shifted out, by its number in the register. -/
theorem crcShift_eq (r : Byte) :
    crcShift r = if r.getLsbD 7 = true then (r <<< 1) ^^^ 0x2F#8 else r <<< 1 := by
  rw [crcShift, BitVec.msb_eq_getLsbD_last]
  rfl

theorem crcByte_eq (r b : Byte) :
    crcByte r b =
      crcShift (crcShift (crcShift (crcShift (crcShift (crcShift (crcShift (crcShift (r ^^^ b)))))))) := rfl

@[simp] theorem checkByte_nil : checkByte [] = 0xFF#8 := rfl

/-- The register runs over a phase byte by byte, so the last byte is combined with the check byte of those before it. -/
@[simp] theorem checkByte_append_singleton (bytes : List Byte) (b : Byte) :
    checkByte (bytes ++ [b]) = crcByte (checkByte bytes) b := by
  simp only [checkByte, List.foldl_concat]

/-- R173's worked values: the command phases of STATUS, DONE(3) and REPEAT, and the responses OK and LATE without data. -/
theorem checkByte_worked_values :
    checkByte [0x01#8] = 0x6D#8 ∧ checkByte [0x00#8] = 0x42#8 ∧ checkByte [0x12#8, 0x03#8] = 0x11#8 ∧
    checkByte [0x05#8] = 0xD1#8 ∧ checkByte [0x04#8] = 0xFE#8 := by
  simp [checkByte, crcByte_eq, crcShift_eq, Config.crcStart]

/-- Settles O5: `checkByte_append_singleton` reduces a phase to its last byte, `crcByte_eq` that byte to eight shifts, and
`crcShift_eq` is one shift; each phase ends with the check byte of the bytes before it by its definition. -/
theorem checkByteRule : Obligations.CheckByteRule := by
  unfold Obligations.CheckByteRule
  refine ⟨checkByte_nil, fun bytes b => ?_, crcShift_eq, fun _ => rfl, fun _ => rfl, checkByte_worked_values⟩
  rw [checkByte_append_singleton, crcByte_eq]

end Sys2Proof.Machine
end

section
/-! PROOFS. The rows of the table by their shape: what a message or event does to its block, what a command frame has its block
do, and what any row can come to. -/

namespace Sys2Proof.Machine

/-! ### The row of each message, event and command frame -/

/-- What a message or event does at the block it reaches; none for the other rows. -/
def eventAct : Instr → Option (State → State)
  | .settleExpiry l => some (expireSettle l)
  | .enableReport l => some fun s => reportIfAsserted l (s.setLine l { s.line l with image := true })
  | .disableReport l => some fun s => s.setLine l { s.line l with image := false }
  | .completionReport l => some (reportIfAsserted l)
  | .occurrenceReport l => some (occurrence (sourceOfLine l))
  | .admittedReport i p ref => some (applyAdmitted i p ref)
  | .takenReport i p ref _ => some (applyTaken i p ref)
  | .doneReport i p ref => some (applyDone i p ref)
  | .withdrawalReport i p ref => some (applyWithdrawal i p ref)
  | .revokedReport i p ref _ => some (applyRevoked i p ref)
  | .claimGranted i ref p => some (applyGranted i ref p)
  | .candidateLost i ref p => some (applyLost i ref p)
  | .expiryReport i ref converted _ => some (applyExpiry i ref converted)
  | .slotGrant k i kind req => some (applyGrant k i kind req)
  | .attachReport p =>
    some (attemptWhere fun r => r.state == .waiting && (portIn p r.routing.targets || r.routing.fallback == some p))
  | .runReport => some (attemptWhere fun r => r.state == .waiting)
  | .slotRequest i kind req priority stamp =>
    some (takeRequest { source := i, kind := kind, req := req, priority := priority, stamp := stamp })
  | .slotRequestCancel i req => some (takeCancel i req)
  | .grantOpen k i ref priority candidates excluded fields =>
    some fun s => openOffer k (newOffer s.time s.window i ref priority candidates excluded) fields s
  | .grantDecline k => some (takeDecline k)
  | .offerAdmissionReport i p round => some (takeOfferAdmission i p round)
  | .claim p i ref round => some (takeClaim p i ref round)
  | .candidateLoss i ref round p => some (takeCandidateLoss i ref round p)
  | .closeRequest i ref => some (takeClose i ref)
  | .offerExpiry k => some (takeOfferExpiry k)
  | .placement p e => some (takePlacement p e)
  | .withdrawalRequest p id => some (takeWithdrawal p id)
  | .noticePosting p kind subject => some (takeNotice p kind subject)
  | .removalRequest p i ref => some (takeRemoval p i ref)
  | .claimAnswer p i ref round granted => some (takeAnswer p i ref round granted)
  | .serviceDeadlineExpiry p k => some (expireService p k)
  | _ => none

/-- What a command frame has its block do; none for the other rows. -/
def commandBody : Instr → Option Body
  | .status p => some (statusBody p)
  | .attach p tag => some (attachBody p tag)
  | .detach p => some (detachBody p)
  | .repeatLast p => some (repeatBody p)
  | .peek p => some (peekBody p)
  | .take p => some (takeBody p)
  | .doneSeq p seq => some (doneBody p seq)
  | .hold p => some (holdBody p)
  | .resume p => some (resumeBody p)
  | .setMask p mask => some (setMaskBody p mask)
  | .setGate p mode => some (setGateBody p mode)
  | .setLimit p ms => some (setLimitBody p ms)
  | .readSlots p => some (readSlotsBody p)
  | .raiseWord p b word => some (raiseBody p b word)
  | .readSource p b => some (readSourceBody p b)
  | .writeRoute p b block => some (writeRouteBody p b block)
  | .enable p b => some (enableBody p b)
  | .disable p b => some (disableBody p b)
  | .adopt p b => some (adoptBody p b)
  | .release p b => some (releaseBody p b)
  | .lock p b => some (lockBody p b)
  | .run p => some (runBody p)
  | .stop p => some (stopBody p)
  | .evict p b => some (evictBody p b)
  | .seize p b x => some (seizeBody p b x)
  | .tableReset p => some (tableResetBody p)
  | .setWindow p ms => some (setWindowBody p ms)
  | .readLines _ => some readLinesBody
  | .readTime _ => some readTimeBody
  | .readOffer p b => some (readOfferBody p b)
  | .readIdent _ => some readIdentBody
  | .badCommand _ _ => some badCommandBody
  | _ => none

/-- A message or event arrives and acts. -/
theorem exec_event {c : Instr} {act : State → State} (h : eventAct c = some act) (s : State) :
    exec c s = eventStep c act s := by
  cases c
  case attachReport => rw [← Option.some.inj h]; rfl
  case runReport => rw [← Option.some.inj h]; rfl
  all_goals first | (cases h; done) | (cases h; rfl)

/-- A command frame is taken at its port, under its row of R125's table. -/
theorem exec_command {c : Instr} {p : Port} {a : Access} {body : Body} (hb : commandBody c = some body)
    (hp : framePort c = some p) (ha : accessOf c = some a) (hw : c.wellFormed = true) (s : State) :
    exec c s = frameStep c p a body s := by
  cases c
  case badCommand q code =>
    have hn : (argCount code).isNone = true := hw
    cases hb; cases hp; cases ha
    simp [exec, execBadCommand, hn]
  all_goals cases hb <;> cases hp <;> cases ha <;> rfl

/-- Every command frame has its block do something, under some row of R125's table. -/
theorem commandBody_isSome {c : Instr} {p : Port} (h : framePort c = some p) :
    ∃ a body, accessOf c = some a ∧ commandBody c = some body := by
  cases c <;> first | (cases h; done) | (cases h; exact ⟨_, _, rfl, rfl⟩)

/-! ### What any row can come to -/

/-- No record of a source, slot of the Offer List or Delivery Unit differs, nor the free cells, nor the state of a port: what
remains of the part is the link, the lines, the time, the pins, attention and what is on its way. -/
structure calm (s t : State) : Prop where
  sources : t.sources = s.sources
  pool : t.poolFree = s.poolFree
  offers : t.offers = s.offers
  units : t.units = s.units
  pstate : ∀ p, (t.port p).pstate = (s.port p).pstate

theorem calm_refl (s : State) : calm s s := ⟨rfl, rfl, rfl, rfl, fun _ => rfl⟩

theorem calm_trans {s t u : State} (h : calm s t) (h' : calm t u) : calm s u :=
  ⟨h'.sources.trans h.sources, h'.pool.trans h.pool, h'.offers.trans h.offers, h'.units.trans h.units,
    fun p => (h'.pstate p).trans (h.pstate p)⟩

theorem calm.src {s t : State} (h : calm s t) (i : SourceId) : t.src i = s.src i := by simp [State.src, h.sources]

theorem calm.offer {s t : State} (h : calm s t) (k : SlotId) : t.offer k = s.offer k := by simp [State.offer, h.offers]

theorem calm.unit {s t : State} (h : calm s t) (p : Port) : t.unit p = s.unit p := by simp [State.unit, h.units]

theorem calm_of_sameBut {s t : State} (h : sameBut [.pins, .time, .control, .lines, .requests, .attn, .messages, .waiting] s t) :
    calm s t := by
  have hp : t.ports = s.ports := h .ports (by simp)
  exact ⟨h .sources (by simp), h .pool (by simp), h .offers (by simp), h .units (by simp), fun p => by
    simp [State.port, hp]⟩

theorem calm_of_link {s t : State} (h : linkOp s t) : calm s t :=
  ⟨h.1 .sources (by simp), h.1 .pool (by simp), h.1 .offers (by simp), h.1 .units (by simp), fun p => (h.2.2 p).1⟩

theorem calm_setPort {s : State} {p : Port} {q : PortRecord} (h : q.pstate = (s.port p).pstate) : calm s (s.setPort p q) :=
  ⟨rfl, rfl, rfl, rfl, fun r => by
    by_cases e : r = p
    · subst e; simp [h]
    · rw [State.setPort_port_ne _ _ _ _ e]⟩

theorem calm_judgeAttn (s : State) : calm s (judgeAttn s) := ⟨rfl, rfl, rfl, rfl, fun _ => rfl⟩

theorem calm_arrive (s : State) (m : Instr) : calm s (s.arrive m) := ⟨rfl, rfl, rfl, rfl, fun _ => rfl⟩

/-- The rows that are no message, event or command frame and touch no source, offer, unit or port state. -/
theorem exec_otherRow {c : Instr} {s t : State} (h : exec c s = .next t) (he : eventAct c = none)
    (hf : framePort c = none) :
    calm s t ∨ (∃ p, c = .pnrstAssert p ∧ t = judgeAttn (resetPort p s)) ∨
    (∃ ssel lin crst prst, c = .powerUp ssel lin crst prst) ∨ ∃ ssel, c = .crstRelease ssel ∧ s.crst = true := by
  cases c <;> try (first | (cases he; done) | (cases hf; done))
  case powerUp => exact .inr (.inr (.inl ⟨_, _, _, _, rfl⟩))
  case crstAssert =>
    refine .inl ?_
    simp only [exec, execCrstAssert] at h
    split at h <;> cases h
    · exact calm_refl s
    · refine ⟨rfl, rfl, rfl, rfl, fun p => ?_⟩
      simp [State.port, abandonFrame, judgeAttn]
  case crstRelease ssel =>
    cases hc : s.crst with
    | true => exact .inr (.inr (.inr ⟨ssel, rfl, rfl⟩))
    | false =>
      simp only [exec, execCrstRelease, hc, Bool.false_eq_true, if_false] at h
      cases h
      exact .inl (calm_refl s)
  case pnrstAssert p =>
    simp only [exec, execPnrstAssert] at h
    split at h <;> cases h
    · exact .inl (calm_setPort rfl)
    · exact .inr (.inl ⟨p, rfl, rfl⟩)
  case pnrstRelease p cs =>
    refine .inl ?_
    simp only [exec, execPnrstRelease] at h
    split at h <;> cases h
    · exact calm_setPort rfl
    · exact calm_refl s
  case rawLevelChange l high =>
    refine .inl ?_
    simp only [exec, execRawLevelChange] at h
    have hpin : calm s (setPin l high s) := ⟨rfl, rfl, rfl, rfl, fun _ => rfl⟩
    split at h <;> cases h
    · exact hpin
    · have hraw := changeRaw_frame l high (setPin l high s)
      exact calm_trans hpin (calm_trans (calm_of_sameBut fun q hq => hraw q fun h => hq (by simp_all))
        (calm_judgeAttn _))
  case frameError p code args check =>
    refine .inl ?_
    simp only [exec, execFrameError] at h
    split at h <;> cases h
    · exact calm_setPort rfl
    · exact calm_refl s
  case earlyChipSelectRelease p =>
    refine .inl ?_
    simp only [exec, execEarlyChipSelectRelease] at h
    split at h <;> cases h
    · exact calm_refl s
    · exact calm_setPort rfl
  case timeBaseTick =>
    refine .inl ?_
    simp only [exec, execTimeBaseTick] at h
    split at h <;> cases h
    · exact calm_refl s
    · exact ⟨rfl, rfl, rfl, rfl, fun _ => rfl⟩

/-- What a row can come to, but for the link, the lines, the pins, the time, attention and what is on its way: nothing, its act
as a message or event, its body as a command that passes R125's check, the steps of PnRST, or a fresh part. -/
theorem exec_cases {c : Instr} {s t : State} (h : exec c s = .next t) :
    calm s t ∨
    (∃ act u, eventAct c = some act ∧ calm s u ∧ calm (act u) t) ∨
    (∃ p a body u, framePort c = some p ∧ accessOf c = some a ∧ commandBody c = some body ∧ calm s u ∧
      portCheck a (u.port p).pstate = none ∧ calm (body u).1 t) ∨
    (∃ p, c = .pnrstAssert p ∧ t = judgeAttn (resetPort p s)) ∨
    (∃ ssel lin crst prst, c = .powerUp ssel lin crst prst) ∨ ∃ ssel, c = .crstRelease ssel ∧ s.crst = true := by
  cases he : eventAct c with
  | some act =>
    rw [exec_event he] at h
    rcases eventStep_cases h with ⟨-, rfl⟩ | ⟨-, rfl⟩
    · exact .inl (calm_refl _)
    · exact .inr (.inl ⟨act, s.arrive c, rfl, calm_arrive s c, calm_judgeAttn _⟩)
  | none =>
    cases hf : framePort c with
    | none => exact (exec_otherRow h he hf).imp_right fun h => .inr (.inr h)
    | some p =>
      obtain ⟨a, body, ha, hb⟩ := commandBody_isSome hf
      cases hw : c.wellFormed with
      | true =>
        rw [exec_command hb hf ha hw] at h
        cases h
        obtain ⟨u, v, hu, hv, ht⟩ := takeCommand_cases c p a body s
        have ht' := calm_trans (calm_of_link ht) (calm_judgeAttn _)
        rcases hv with rfl | ⟨hc, rfl⟩
        · exact .inl (calm_trans (calm_of_link hu) ht')
        · exact .inr (.inr (.inl ⟨p, a, body, u, rfl, ha, hb, calm_of_link hu, hc, ht'⟩))
      | false =>
        cases c <;> try (first | (cases hf; done) | cases hw)
        case badCommand code =>
          have hn : (argCount code).isNone = false := hw
          simp only [exec, execBadCommand, hn, Bool.false_eq_true, if_false] at h
          cases h
          exact .inl (calm_refl s)

/-- A step takes something off what waits, may change one port's frame, or runs one row. -/
theorem step_cases_calm {s t : State} (h : step s = .next t) : calm s t ∨ ∃ u c, calm s u ∧ exec c u = .next t := by
  obtain ⟨u, hu, ht⟩ := step_cases h
  have hsu : calm s u := calm_of_sameBut fun q hq => hu q fun h => hq (by simp_all)
  rcases ht with rfl | ⟨p, f, rfl⟩ | ⟨c, hc⟩
  · exact .inl hsu
  · exact .inl (calm_trans hsu (calm_setPort rfl))
  · exact .inr ⟨u, c, hsu, hc⟩

/-- A law that reads only what `calm` leaves alone and that every row keeps is kept by every step. -/
theorem step_keeps {P : State → Prop} (hcalm : ∀ {s t}, calm s t → P s → P t)
    (hexec : ∀ {c s t}, exec c s = .next t → P s → P t) {s t : State} (h : step s = .next t) (hs : P s) : P t := by
  rcases step_cases_calm h with hc | ⟨u, c, hc, ht⟩
  · exact hcalm hc hs
  · exact hexec ht (hcalm hc hs)

end Sys2Proof.Machine
end

section
/-! PROOFS. Which block each row reaches, and what it leaves alone of the other blocks; every command answers and keeps the
queue; the law of ATTN. -/

namespace Sys2Proof.Machine

/-! ### Rows by their block -/

/-- The messages and events that the Source Table takes. -/
def tableRow : Instr → Bool
  | .occurrenceReport _ | .admittedReport _ _ _ | .takenReport _ _ _ _ | .doneReport _ _ _ | .withdrawalReport _ _ _
  | .revokedReport _ _ _ _ | .claimGranted _ _ _ | .candidateLost _ _ _ | .expiryReport _ _ _ _ | .slotGrant _ _ _ _
  | .attachReport _ | .runReport => true
  | _ => false

/-- The messages and events that the Offer Arbiter takes. -/
def arbiterRow : Instr → Bool
  | .slotRequest _ _ _ _ _ | .slotRequestCancel _ _ | .grantOpen _ _ _ _ _ _ _ | .grantDecline _
  | .offerAdmissionReport _ _ _ | .claim _ _ _ _ | .candidateLoss _ _ _ _ | .closeRequest _ _ | .offerExpiry _ => true
  | _ => false

/-- The Delivery Unit that takes a message or event. -/
def unitRow : Instr → Option Port
  | .placement p _ | .withdrawalRequest p _ | .noticePosting p _ _ | .removalRequest p _ _ | .claimAnswer p _ _ _ _
  | .serviceDeadlineExpiry p _ => some p
  | _ => none

/-- A message or event changes the block that takes it, and sends messages. -/
theorem eventAct_cases {c : Instr} {act : State → State} (h : eventAct c = some act) :
    (∀ s, sameBut [.lines, .messages] s (act s)) ∨
    (tableRow c = true ∧ ∀ s, sameBut [.sources, .pool, .messages] s (act s)) ∨
    (arbiterRow c = true ∧ ∀ s, offerOp s (act s)) ∨
    ∃ p, unitRow c = some p ∧ ∀ s, ∃ u, unitOp p s u ∧ linkOp u (act s) := by
  have told : ∀ l s, sameBut [.lines, .messages] s (reportIfAsserted l s) := fun l s => by
    rw [reportIfAsserted_eq]; simp [sameBut_iff]
  have unit : ∀ {p : Port} {act : State → State}, (∀ s, unitOp p s (act s)) → ∀ s, ∃ u, unitOp p s u ∧ linkOp u (act s) :=
    fun h s => ⟨_, h s, linkOp_refl _⟩
  rw [eq_comm] at h
  cases c with
  | settleExpiry l => exact .inl (by rw [Option.some.inj h]; exact expireSettle_frame l)
  | enableReport l =>
    refine .inl fun s => ?_
    rw [Option.some.inj h]
    exact sameBut_trans (l₁ := [.lines]) (by simp [sameBut_iff]) (told l _) (by simp) fun _ h => h
  | disableReport l => exact .inl fun s => by rw [Option.some.inj h]; simp [sameBut_iff]
  | completionReport l => exact .inl (by rw [Option.some.inj h]; exact told l)
  | occurrenceReport l => exact .inr (.inl ⟨rfl, fun s => by rw [Option.some.inj h]; exact (occurrence_op _ s).1⟩)
  | admittedReport i p ref => exact .inr (.inl ⟨rfl, fun s => by rw [Option.some.inj h]; exact (applyAdmitted_op i p ref s).1⟩)
  | takenReport i p ref seq => exact .inr (.inl ⟨rfl, fun s => by rw [Option.some.inj h]; exact (applyTaken_op i p ref s).1⟩)
  | doneReport i p ref => exact .inr (.inl ⟨rfl, fun s => by rw [Option.some.inj h]; exact (applyDone_op i p ref s).1⟩)
  | withdrawalReport i p ref =>
    exact .inr (.inl ⟨rfl, fun s => by rw [Option.some.inj h]; exact (applyWithdrawal_op i p ref s).1⟩)
  | revokedReport i p ref kind =>
    exact .inr (.inl ⟨rfl, fun s => by rw [Option.some.inj h]; exact (applyRevoked_op i p ref s).1⟩)
  | claimGranted i ref p => exact .inr (.inl ⟨rfl, fun s => by rw [Option.some.inj h]; exact (applyGranted_op i ref p s).1⟩)
  | candidateLost i ref p => exact .inr (.inl ⟨rfl, fun s => by rw [Option.some.inj h]; exact (applyLost_op i ref p s).1⟩)
  | expiryReport i ref conv cause =>
    exact .inr (.inl ⟨rfl, fun s => by rw [Option.some.inj h]; exact (applyExpiry_op i ref conv s).1⟩)
  | slotGrant k i kind req =>
    exact .inr (.inl ⟨rfl, fun s => by rw [Option.some.inj h]; exact (applyGrant_op k i kind req s).1⟩)
  | attachReport p => exact .inr (.inl ⟨rfl, fun s => by rw [Option.some.inj h]; exact (attemptWhere_frame _ s).1⟩)
  | runReport => exact .inr (.inl ⟨rfl, fun s => by rw [Option.some.inj h]; exact (attemptWhere_frame _ s).1⟩)
  | slotRequest i kind req priority stamp =>
    exact .inr (.inr (.inl ⟨rfl, by rw [Option.some.inj h]; exact takeRequest_op _⟩))
  | slotRequestCancel i req => exact .inr (.inr (.inl ⟨rfl, by rw [Option.some.inj h]; exact takeCancel_op i req⟩))
  | grantOpen k i ref priority candidates excluded fields =>
    exact .inr (.inr (.inl ⟨rfl, fun s => by rw [Option.some.inj h]; exact openOffer_op _ _ _ s⟩))
  | grantDecline k => exact .inr (.inr (.inl ⟨rfl, by rw [Option.some.inj h]; exact takeDecline_op k⟩))
  | offerAdmissionReport i p round =>
    exact .inr (.inr (.inl ⟨rfl, by rw [Option.some.inj h]; exact takeOfferAdmission_op i p round⟩))
  | claim p i ref round => exact .inr (.inr (.inl ⟨rfl, by rw [Option.some.inj h]; exact takeClaim_op p i ref round⟩))
  | candidateLoss i ref round p =>
    exact .inr (.inr (.inl ⟨rfl, by rw [Option.some.inj h]; exact takeCandidateLoss_op i ref round p⟩))
  | closeRequest i ref => exact .inr (.inr (.inl ⟨rfl, by rw [Option.some.inj h]; exact takeClose_op i ref⟩))
  | offerExpiry k => exact .inr (.inr (.inl ⟨rfl, by rw [Option.some.inj h]; exact takeOfferExpiry_op k⟩))
  | placement p e => exact .inr (.inr (.inr ⟨p, rfl, unit (by rw [Option.some.inj h]; exact takePlacement_op p e)⟩))
  | withdrawalRequest p id =>
    exact .inr (.inr (.inr ⟨p, rfl, unit (by rw [Option.some.inj h]; exact takeWithdrawal_op p id)⟩))
  | noticePosting p kind subject =>
    exact .inr (.inr (.inr ⟨p, rfl, unit (by rw [Option.some.inj h]; exact takeNotice_op p kind subject)⟩))
  | removalRequest p i ref =>
    exact .inr (.inr (.inr ⟨p, rfl, unit (by rw [Option.some.inj h]; exact takeRemoval_op p i ref)⟩))
  | claimAnswer p i ref round granted =>
    exact .inr (.inr (.inr ⟨p, rfl, by rw [Option.some.inj h]; exact takeAnswer_cases p i ref round granted⟩))
  | serviceDeadlineExpiry p k =>
    exact .inr (.inr (.inr ⟨p, rfl, unit (by rw [Option.some.inj h]; exact expireService_op p k)⟩))
  | _ => cases h

/-- The commands that a block answers from the state alone. -/
def readCommand : Instr → Bool
  | .status _ | .repeatLast _ | .peek _ | .readSlots _ | .readSource _ _ | .readLines _ | .readTime _ | .readOffer _ _
  | .readIdent _ | .badCommand _ _ => true
  | _ => false

/-- The commands of run control (R158, R159, R163). -/
def controlCommand : Instr → Bool
  | .run _ | .stop _ | .setWindow _ _ => true
  | _ => false

/-- The commands that can change a source's record (chapters 3, 8 and 9). -/
def sourceCommand : Instr → Bool
  | .raiseWord _ _ _ | .writeRoute _ _ _ | .enable _ _ | .disable _ _ | .adopt _ _ | .release _ _ | .lock _ _
  | .seize _ _ _ | .tableReset _ => true
  | _ => false

/-- The commands that can change a Delivery Unit or a port's session (chapters 4, 6 and 7). -/
def sessionCommand : Instr → Bool
  | .attach _ _ | .detach _ | .evict _ _ | .take _ | .doneSeq _ _ | .hold _ | .resume _ | .setMask _ _ | .setGate _ _
  | .setLimit _ _ => true
  | _ => false

/-- What a source command can do to the part, once its checks have passed: R141's new routing, R25's and R26's enabling and
disabling, the owner and the lock of an unlocked source, R46's word, and R164's reset, with the messages sent. -/
inductive SourceEdit (c : Instr) (s : State) : State → Prop where
  | unchanged : SourceEdit c s s
  | routed (i : SourceId) (block : RouteBlock) (r : Routing) (unlocked : (s.src i).lock = false)
      (off : (s.src i).state = .off) (valid : routingOf i block = some r) :
      SourceEdit c s (s.setSrc i { s.src i with routing := r })
  | enabled (i : SourceId) (unlocked : (s.src i).lock = false) (off : (s.src i).state = .off) :
      SourceEdit c s (tellLine i .enableReport (s.setSrc i { s.src i with state := .idle, enable := true }))
  | disabled (i : SourceId) (unlocked : (s.src i).lock = false) : SourceEdit c s (disableSource i s)
  | ownerSet (i : SourceId) (o : Option Port) (ms : List Instr) (unlocked : (s.src i).lock = false) :
      SourceEdit c s ((s.setSrc i { s.src i with owner := o }).send ms)
  | lockSet (i : SourceId) (unlocked : (s.src i).lock = false) (owned : (s.src i).owner.isSome = true) :
      SourceEdit c s (s.setSrc i { s.src i with lock := true })
  | raised (i : SourceId) (p : Port) (b : Byte) (w : PoolWord) (passed : raiseCheck s p b = .ok i) :
      SourceEdit c s (raiseOn i w s)
  | cleared (p : Port) (command : c = .tableReset p) : SourceEdit c s ((resetTable s).send tableNotices)

/-- What an accepted source byte names: an unlocked source. -/
theorem unlockedSource_spec {s : State} {b : Byte} {i : SourceId} (h : unlockedSource s b = .ok i) :
    sourceOf b = some i ∧ (s.src i).lock = false := by
  unfold unlockedSource at h
  split at h
  · cases h
  · split at h <;> cases h
    exact ⟨by assumption, by simp_all⟩

/-- A steering command from another port changes nothing. -/
theorem steered_cases (c : Instr) (p : Port) (body : Body) (s : State) :
    (steered c p body s).1 = s ∨ steered c p body s = body s := by
  unfold steered
  split
  · exact .inr rfl
  · exact .inl rfl

theorem commandBody_edit {c : Instr} {body : Body} (h : commandBody c = some body) (hc : sourceCommand c = true)
    (s : State) : SourceEdit c s (body s).1 := by
  cases c <;> try (cases hc; done)
  all_goals cases h
  case raiseWord p b word =>
    unfold raiseBody
    split
    · exact .unchanged
    · next i hi => exact .raised i p b _ hi
  case writeRoute p b block =>
    unfold writeRouteBody
    split
    · exact .unchanged
    · next i hi =>
      split
      · next hoff =>
        split
        · exact .unchanged
        · next r hr => exact .routed i block r (ownedSource_spec hi).2.1 hoff hr
      · exact .unchanged
  case enable p b =>
    unfold enableBody
    split
    · exact .unchanged
    · next i hi =>
      simp only []
      split
      · exact .unchanged
      · next hoff =>
        split
        · exact .unchanged
        · exact .enabled i (ownedSource_spec hi).2.1 hoff
      · exact .unchanged
  case disable p b =>
    unfold disableBody
    split
    · exact .unchanged
    · next i hi => exact .disabled i (ownedSource_spec hi).2.1
  case adopt p b =>
    unfold adoptBody
    split
    · exact .unchanged
    · next i hi =>
      split
      · have e := SourceEdit.ownerSet (c := .adopt p b) i (some p) [] (unlockedSource_spec hi).2
        rwa [State.send_nil] at e
      · split <;> exact .unchanged
  case release p b =>
    unfold releaseBody
    split
    · exact .unchanged
    · next i hi =>
      have e := SourceEdit.ownerSet (c := .release p b) i none [] (ownedSource_spec hi).2.1
      rwa [State.send_nil] at e
  case lock p b =>
    unfold lockBody
    split
    · exact .unchanged
    · next i hi =>
      obtain ⟨-, hl, ho⟩ := ownedSource_spec hi
      exact .lockSet i hl (by rw [ho]; rfl)
  case seize p b x =>
    unfold seizeBody
    rcases steered_cases (.seize p b x) p _ s with e | e <;> rw [e]
    · exact .unchanged
    · split
      · exact .unchanged
      · next i hi =>
        split
        · exact .unchanged
        · next o _ =>
          have hl := (unlockedSource_spec hi).2
          change SourceEdit _ s (seizeSource i o s)
          unfold seizeSource
          simp only []
          split
          · exact .unchanged
          · split
            · exact .ownerSet i o _ hl
            · have e := SourceEdit.ownerSet (c := .seize p b x) i o [] hl
              rwa [State.send_nil] at e
  case tableReset p =>
    unfold tableResetBody
    rcases steered_cases (.tableReset p) p _ s with e | e <;> rw [e]
    · exact .unchanged
    · exact .cleared p rfl

/-- A source command changes records, cells and messages alone. -/
theorem SourceEdit.frame {c : Instr} {s t : State} (h : SourceEdit c s t) : sameBut [.sources, .pool, .messages] s t := by
  cases h with
  | unchanged => exact sameBut_refl _ s
  | routed | lockSet => simp [sameBut_iff]
  | ownerSet => simp [sameBut_iff]
  | enabled i =>
    exact sameBut_trans (l₁ := [.sources]) (by simp [sameBut_iff]) (tellLine_op i _ _).1 (by simp) fun _ h => h
  | disabled i => exact (disableSource_frame i s).1
  | raised i p b w => exact (raiseOn_op i w s).1
  | cleared =>
    exact sameBut_trans (resetTable_frame s).1 (l₂ := [.messages]) (by simp [sameBut_iff]) (fun _ h => h) (by simp)

/-- A command of a session changes port records, units and messages alone. -/
theorem commandBody_session {c : Instr} {body : Body} (h : commandBody c = some body) (hc : sessionCommand c = true)
    (s : State) : sameBut [.ports, .units, .messages] s (body s).1 := by
  cases c <;> try (cases hc; done)
  all_goals cases h
  case attach => simp [sameBut_iff, attachBody, accept]
  case detach p => exact (leaveSession_frame p .detached s).1
  case evict p b =>
    unfold evictBody
    rcases steered_cases (.evict p b) p _ s with e | e <;> rw [e]
    · exact sameBut_refl _ s
    · split
      · exact sameBut_refl _ s
      · split
        · exact sameBut_refl _ s
        · next v _ _ => exact (leaveSession_frame v .evicted s).1
  case take p => exact sameBut_trans (takeBody_frame p s).1 (sameBut_refl [] _) (by simp) (by simp)
  case doneSeq p seq =>
    unfold doneBody
    simp only []
    split
    · simp [sameBut_iff, accept]
    · split
      · simp [sameBut_iff]
      · exact sameBut_refl _ s
  case setGate p mode =>
    unfold setGateBody
    split
    · simp [sameBut_iff, accept]
    · split
      · simp [sameBut_iff, accept]
      · exact sameBut_refl _ s
  case setLimit p ms =>
    unfold setLimitBody
    split
    · simp [sameBut_iff, accept]
    · exact sameBut_refl _ s
  case hold | resume | setMask => simp [sameBut_iff, accept, holdBody, resumeBody, setMaskBody]

theorem commandBody_control {c : Instr} {body : Body} (h : commandBody c = some body) (hc : controlCommand c = true)
    (s : State) : sameBut [.control, .messages] s (body s).1 := by
  cases c <;> try (cases hc; done)
  all_goals cases h
  case run p =>
    unfold runBody
    rcases steered_cases (.run p) p _ s with e | e <;> rw [e]
    · exact sameBut_refl _ s
    · simp [sameBut_iff, accept]
  case stop p =>
    unfold stopBody
    rcases steered_cases (.stop p) p _ s with e | e <;> rw [e]
    · exact sameBut_refl _ s
    · simp [sameBut_iff, accept]
  case setWindow p ms =>
    unfold setWindowBody
    rcases steered_cases (.setWindow p ms) p _ s with e | e <;> rw [e]
    · exact sameBut_refl _ s
    · split
      · exact sameBut_refl _ s
      · simp [sameBut_iff, accept]

theorem commandBody_read {c : Instr} {body : Body} (h : commandBody c = some body) (hc : readCommand c = true)
    (s : State) : (body s).1 = s := by
  cases c <;> try (cases hc; done)
  all_goals cases h
  case readSource p b =>
    unfold readSourceBody
    split <;> rfl
  case readOffer p b =>
    unfold readOfferBody
    split <;> rfl
  all_goals rfl

/-- Every command frame is one of four kinds. -/
theorem commandBody_kinds {c : Instr} {body : Body} (h : commandBody c = some body) :
    readCommand c = true ∨ controlCommand c = true ∨ sourceCommand c = true ∨ sessionCommand c = true := by
  cases c <;> first | (cases h; done) | exact .inl rfl | exact .inr (.inl rfl) | exact .inr (.inr (.inl rfl)) |
    exact .inr (.inr (.inr rfl))

/-! ### Every command answers, and leaves what waits outside alone -/

/-- The queue of commands and what the masters have still to do on their links are the same. -/
def keepsQueue (s t : State) : Prop := t.pending = s.pending ∧ t.link = s.link

theorem keepsQueue_of_sameBut {l : List Part} {s t : State} (h : sameBut l s t) (hw : Part.waiting ∉ l) : keepsQueue s t := by
  obtain ⟨-, -, hlink, hpending⟩ := h .waiting hw
  exact ⟨hpending, hlink⟩

theorem keepsQueue_trans {s t u : State} (h : keepsQueue s t) (h' : keepsQueue t u) : keepsQueue s u :=
  ⟨h'.1.trans h.1, h'.2.trans h.2⟩

theorem eventAct_keepsQueue {c : Instr} {act : State → State} (h : eventAct c = some act) (s : State) :
    keepsQueue s (act s) := by
  rcases eventAct_cases h with h | ⟨-, h⟩ | ⟨-, h⟩ | ⟨p, -, h⟩
  · exact keepsQueue_of_sameBut (h s) (by simp)
  · exact keepsQueue_of_sameBut (h s) (by simp)
  · exact keepsQueue_of_sameBut (h s) (by simp)
  · obtain ⟨u, hu, ht⟩ := h s
    exact keepsQueue_trans (keepsQueue_of_sameBut hu.1 (by simp)) ht.2.1

theorem commandBody_keepsQueue {c : Instr} {body : Body} (h : commandBody c = some body) (s : State) :
    keepsQueue s (body s).1 := by
  rcases commandBody_kinds h with hc | hc | hc | hc
  · rw [commandBody_read h hc]; exact ⟨rfl, rfl⟩
  · exact keepsQueue_of_sameBut (commandBody_control h hc s) (by simp)
  · exact keepsQueue_of_sameBut (commandBody_edit h hc s).frame (by simp)
  · exact keepsQueue_of_sameBut (commandBody_session h hc s) (by simp)

theorem eventStep_answers (m : Instr) {act : State → State} {s : State} (h : ∀ u, keepsQueue u (act u)) :
    ∃ t, eventStep m act s = .next t ∧ t.pending = s.pending ∧ t.link = s.link := by
  unfold eventStep
  split
  · exact ⟨s, rfl, rfl, rfl⟩
  · exact ⟨_, rfl, h (s.arrive m)⟩

theorem frameStep_answers (c : Instr) (p : Port) (a : Access) {body : Body} {s : State}
    (h : ∀ u, keepsQueue u (body u).1) :
    ∃ t, frameStep c p a body s = .next t ∧ t.pending = s.pending ∧ t.link = s.link := by
  refine ⟨_, rfl, ?_⟩
  obtain ⟨u, v, hu, hv, ht⟩ := takeCommand_cases c p a body s
  rcases hv with rfl | ⟨-, rfl⟩
  · exact keepsQueue_trans hu.2.1 ht.2.1
  · exact keepsQueue_trans hu.2.1 (keepsQueue_trans (h u) ht.2.1)

/-- A port whose frame, running command and waiting commands an assertion of PnRST has dropped (R136, log 8). -/
def dropCommands (p : Port) (s : State) : State :=
  { s.setPort p { abandonFrame (s.port p) with inReset := true, csIgnored := false } with
    handed := s.handed.filter fun c => !(framePort c == some p) }

/-- A port whose settings, store and tag an assertion of PnRST has restored (R136). -/
def restoreSettings (p : Port) (s : State) : State :=
  (s.setUnit p (resetSettings (s.unit p))).setPort p { s.port p with store := none, tag := 0#16 }

theorem resetPort_eq (p : Port) (s : State) :
    resetPort p s = restoreSettings p (leaveSession p .detached (dropCommands p s)) := rfl

theorem dropCommands_frame (p : Port) (s : State) : sameBut [.ports, .waiting] s (dropCommands p s) := by
  simp [sameBut_iff, dropCommands]

theorem restoreSettings_frame (p : Port) (s : State) : sameBut [.ports, .units] s (restoreSettings p s) := by
  simp [sameBut_iff, restoreSettings]

theorem resetPort_frame (p : Port) (s : State) : sameBut [.ports, .units, .messages, .waiting] s (resetPort p s) := by
  rw [resetPort_eq]
  refine sameBut_trans (dropCommands_frame p s) ?_ (by simp) fun _ h => h
  refine sameBut_trans (leaveSession_frame p .detached _).1 (l₂ := [.ports, .units])
    (restoreSettings_frame p _) (by simp) (by simp)

theorem resetPort_keepsQueue (p : Port) (s : State) : keepsQueue s (resetPort p s) := by
  rw [resetPort_eq]
  have h := keepsQueue_of_sameBut (leaveSession_frame p .detached (dropCommands p s)).1 (by simp)
  exact keepsQueue_trans ⟨rfl, rfl⟩ (keepsQueue_trans h (keepsQueue_of_sameBut (restoreSettings_frame p _) (by simp)))

/-- Settles O3, by the shape of the row: a message or event answers with its act, a command frame with its body, and the rows
of the pins, the link and the Time Base each have their own next state. -/
theorem everyCommandAnswersAndKeepsQueue : Obligations.EveryCommandAnswersAndKeepsQueue := by
  unfold Obligations.EveryCommandAnswersAndKeepsQueue
  intro c s
  cases he : eventAct c with
  | some act => rw [exec_event he]; exact eventStep_answers c (eventAct_keepsQueue he)
  | none =>
    cases hf : framePort c with
    | some p =>
      obtain ⟨a, body, ha, hb⟩ := commandBody_isSome hf
      cases hw : c.wellFormed with
      | true => rw [exec_command hb hf ha hw]; exact frameStep_answers c p a (commandBody_keepsQueue hb)
      | false =>
        cases c <;> try (first | (cases hf; done) | cases hw)
        case badCommand code =>
          have hn : (argCount code).isNone = false := hw
          exact ⟨s, by simp [exec, execBadCommand, hn], rfl, rfl⟩
    | none =>
      cases c <;> try (first | (cases he; done) | (cases hf; done))
      case powerUp => exact ⟨_, rfl, rfl, rfl⟩
      case crstAssert =>
        simp only [exec, execCrstAssert]
        split <;> exact ⟨_, rfl, rfl, rfl⟩
      case crstRelease =>
        simp only [exec, execCrstRelease]
        split <;> exact ⟨_, rfl, rfl, rfl⟩
      case pnrstAssert p =>
        simp only [exec, execPnrstAssert]
        split
        · exact ⟨_, rfl, rfl, rfl⟩
        · exact ⟨_, rfl, resetPort_keepsQueue p s⟩
      case pnrstRelease =>
        simp only [exec, execPnrstRelease]
        split <;> exact ⟨_, rfl, rfl, rfl⟩
      case rawLevelChange l high =>
        simp only [exec, execRawLevelChange]
        split
        · exact ⟨_, rfl, rfl, rfl⟩
        · have hraw := keepsQueue_of_sameBut (changeRaw_frame l high (setPin l high s)) (by simp)
          exact ⟨_, rfl, keepsQueue_trans (t := setPin l high s) ⟨rfl, rfl⟩ (keepsQueue_trans hraw ⟨rfl, rfl⟩)⟩
      case frameError =>
        simp only [exec, execFrameError]
        split <;> exact ⟨_, rfl, rfl, rfl⟩
      case earlyChipSelectRelease =>
        simp only [exec, execEarlyChipSelectRelease]
        split <;> exact ⟨_, rfl, rfl, rfl⟩
      case timeBaseTick =>
        simp only [exec, execTimeBaseTick]
        split <;> exact ⟨_, rfl, rfl, rfl⟩

end Sys2Proof.Machine
end

section
/-! PROOFS. The law of ATTN (R80) is kept by every step. -/

namespace Sys2Proof.Machine

/-- Neither what ATTN shows nor what it reads differs. -/
theorem attnLaw_of_setPort {s : State} {p : Port} {q : PortRecord} (hq : q.pstate = (s.port p).pstate) (h : attnLaw s) :
    attnLaw (s.setPort p q) :=
  (attnLaw_congr (by rfl) (by rfl) (calm_setPort hq).pstate (by rfl)).1 h

/-- A part as power-up or chip reset leaves it: no port is ATTACHED and no ATTN is asserted. -/
theorem attnLaw_of_detached {s : State} (ha : s.attn = 0#4) (hp : ∀ p, (s.port p).pstate = .detached) : attnLaw s := by
  intro p
  rw [ha, hp p]
  have none : ∀ q : Port, portIn q 0#4 = false := by decide
  simp [none]

theorem freshPart_port (s : State) (ssel : BitVec 3) (lin : BitVec 32) (sources : Vector Source 48) (lines : Vector Line 32)
    (inReset csIgnored : Port → Bool) (crst powerHold : Bool) (cause : ResetCause) (p : Port) :
    (freshPart s ssel lin sources lines inReset csIgnored crst powerHold cause).port p =
      { powerUpPort (inReset p) with frames := (s.port p).frames, csIgnored := csIgnored p } := by
  simp [freshPart, State.port]

theorem freshPart_attnLaw (s : State) (ssel : BitVec 3) (lin : BitVec 32) (sources : Vector Source 48)
    (lines : Vector Line 32) (inReset csIgnored : Port → Bool) (crst powerHold : Bool) (cause : ResetCause) :
    attnLaw (freshPart s ssel lin sources lines inReset csIgnored crst powerHold cause) :=
  attnLaw_of_detached rfl fun p => by rw [freshPart_port]; rfl

theorem attnLaw_send {s : State} (ms : List Instr) (h : attnLaw s) : attnLaw (s.send ms) := h

/-- The part as chip reset ends, before the occurrences of its lines are reported (R169, R39). -/
def chipResetPart (ssel : BitVec 3) (s : State) : State :=
  freshPart s ssel s.pins.lin (Vector.ofFn fun i : Fin 48 => sourceAfterChipReset i (s.src i))
    (Vector.ofFn fun l : Fin 32 => lineAfterChipReset (s.pins.lin.getLsbD l.val) (s.src (sourceOfLine l)))
    (fun p => (s.port p).inReset) (fun p => (s.port p).csIgnored) false false (if s.powerHold then .power else .chip)

/-- The part as power-up ends (R167). -/
def powerUpPart (ssel : BitVec 3) (lin : BitVec 32) (crst : Bool) (prst : PortSet) (s : State) : State :=
  freshPart s ssel lin
    (Vector.ofFn fun i : Fin 48 => freshSource (powerUpRouting i) (s.src i).nextRef (s.src i).nextRequest)
    (Vector.ofFn fun l : Fin 32 => powerUpLine (lin.getLsbD l.val))
    (portIn · prst) (fun _ => false) crst crst .power

theorem exec_powerUp (ssel : BitVec 3) (lin : BitVec 32) (crst : Bool) (prst : PortSet) (s : State) :
    exec (.powerUp ssel lin crst prst) s = .next (powerUpPart ssel lin crst prst s) := rfl

theorem exec_crstRelease {s : State} (ssel : BitVec 3) (h : s.crst = true) :
    exec (.crstRelease ssel) s =
      .next ((chipResetPart ssel s).send (chipResetOccurrences (chipResetPart ssel s))) := by
  simp only [exec, execCrstRelease, h, if_true, chipResetPart]

theorem exec_crstRelease_released {s : State} (ssel : BitVec 3) (h : s.crst = false) :
    exec (.crstRelease ssel) s = .next s := by
  simp only [exec, execCrstRelease, h, Bool.false_eq_true, if_false]

theorem exec_keeps_attnLaw {c : Instr} {s t : State} (h : exec c s = .next t) (hs : attnLaw s) : attnLaw t := by
  cases he : eventAct c with
  | some act =>
    rw [exec_event he] at h
    rcases eventStep_cases h with ⟨-, rfl⟩ | ⟨-, rfl⟩
    · exact hs
    · exact judgeAttn_attnLaw _
  | none =>
    cases hf : framePort c with
    | some p =>
      obtain ⟨a, body, ha, hb⟩ := commandBody_isSome hf
      cases hw : c.wellFormed with
      | true =>
        rw [exec_command hb hf ha hw] at h
        cases h
        exact judgeAttn_attnLaw _
      | false =>
        cases c <;> try (first | (cases hf; done) | cases hw)
        case badCommand code =>
          have hn : (argCount code).isNone = false := hw
          simp only [exec, execBadCommand, hn, Bool.false_eq_true, if_false] at h
          cases h
          exact hs
    | none =>
      cases c <;> try (first | (cases he; done) | (cases hf; done))
      case powerUp ssel lin crst prst =>
        rw [exec_powerUp] at h
        rw [← Host.Outcome.next.inj h]
        exact freshPart_attnLaw _ _ _ _ _ _ _ _ _ _
      case crstAssert =>
        simp only [exec, execCrstAssert] at h
        split at h <;> cases h
        · exact hs
        · exact judgeAttn_attnLaw _
      case crstRelease ssel =>
        cases hc : s.crst with
        | true =>
          rw [exec_crstRelease ssel hc] at h
          rw [← Host.Outcome.next.inj h]
          exact attnLaw_send _ (freshPart_attnLaw _ _ _ _ _ _ _ _ _ _)
        | false =>
          rw [exec_crstRelease_released ssel hc] at h
          rw [← Host.Outcome.next.inj h]
          exact hs
      case pnrstAssert =>
        simp only [exec, execPnrstAssert] at h
        split at h <;> cases h
        · exact attnLaw_of_setPort rfl hs
        · exact judgeAttn_attnLaw _
      case pnrstRelease =>
        simp only [exec, execPnrstRelease] at h
        split at h <;> cases h
        · exact attnLaw_of_setPort rfl hs
        · exact hs
      case rawLevelChange =>
        simp only [exec, execRawLevelChange] at h
        split at h <;> cases h
        · exact hs
        · exact judgeAttn_attnLaw _
      case frameError =>
        simp only [exec, execFrameError] at h
        split at h <;> cases h
        · exact attnLaw_of_setPort rfl hs
        · exact hs
      case earlyChipSelectRelease =>
        simp only [exec, execEarlyChipSelectRelease] at h
        split at h <;> cases h
        · exact hs
        · exact attnLaw_of_setPort rfl hs
      case timeBaseTick =>
        simp only [exec, execTimeBaseTick] at h
        split at h <;> cases h
        · exact hs
        · exact hs

/-- Settles O57: what a step takes off the queues and a frame in progress are not read by the law, and every row keeps it. -/
theorem attnLawKept : Obligations.AttnLawKept := by
  unfold Obligations.AttnLawKept
  intro s t hs h
  obtain ⟨u, hu, ht⟩ := step_cases h
  have hus : attnLaw u := by
    have hc := calm_of_sameBut (s := s) (t := u) fun q hq => hu q fun h => hq (by simp_all)
    exact (attnLaw_congr (hu .attn (by simp)) (hu .pins (by simp)).2.1 hc.pstate hc.units).1 hs
  rcases ht with rfl | ⟨p, f, rfl⟩ | ⟨c, hc⟩
  · exact hus
  · exact attnLaw_of_setPort rfl hus
  · exact exec_keeps_attnLaw hc hus

end Sys2Proof.Machine
end

section
/-! PROOFS. The routing fields, the owner, the lock and the enable field of a source (R139, R143, R151). -/

namespace Sys2Proof.Machine

/-- The fields of a record that belong to its owner are the same: routing, owner, lock and enable (R139, R151). -/
structure sameFields (r r' : Source) : Prop where
  routing : r'.routing = r.routing
  owner : r'.owner = r.owner
  lock : r'.lock = r.lock
  enable : r'.enable = r.enable

theorem sameFields_refl (r : Source) : sameFields r r := ⟨rfl, rfl, rfl, rfl⟩

theorem sameFields_of_eq {r r' : Source} (h : r' = r) : sameFields r r' := by subst h; exact sameFields_refl _

/-- What a command may do to the fields of an unlocked source: one that it locks has an owner; the routing changes while the
source is OFF, or by a reset that leaves it OFF (R139, R143). -/
structure fieldsMove (byReset : Prop) (r r' : Source) : Prop where
  unlocked : r.lock = false
  owned : r'.lock = true → r'.owner.isSome = true
  routing : r'.routing = r.routing ∨ r.state = .off ∨ r'.state = .off ∧ byReset

theorem sourceOp_fields {i : SourceId} {s t : State} (h : sourceOp i s t) (j : SourceId) :
    sameFields (s.src j) (t.src j) := by
  obtain ⟨-, hothers, hrouting, howner, hlock, henable⟩ := h
  by_cases e : j = i
  · subst e; exact ⟨hrouting, howner, hlock, henable⟩
  · exact sameFields_of_eq (hothers j e)

/-- No message or event changes these fields. -/
theorem eventAct_fields {c : Instr} {act : State → State} (h : eventAct c = some act) (s : State) (i : SourceId) :
    sameFields (s.src i) ((act s).src i) := by
  have same : ∀ {l : List Part} {t : State}, sameBut l s t → Part.sources ∉ l → sameFields (s.src i) (t.src i) :=
    fun ht hl => sameFields_of_eq (by rw [State.src, ht .sources hl]; rfl)
  rcases eventAct_cases h with ha | ⟨hc, -⟩ | ⟨-, ha⟩ | ⟨p, -, ha⟩
  · exact same (ha s) (by simp)
  · rw [eq_comm] at h
    cases c <;> try (cases hc; done)
    all_goals rw [Option.some.inj h]
    case occurrenceReport => exact sourceOp_fields (occurrence_op _ s) i
    case admittedReport => exact sourceOp_fields (applyAdmitted_op _ _ _ s) i
    case takenReport => exact sourceOp_fields (applyTaken_op _ _ _ s) i
    case doneReport => exact sourceOp_fields (applyDone_op _ _ _ s) i
    case withdrawalReport => exact sourceOp_fields (applyWithdrawal_op _ _ _ s) i
    case revokedReport => exact sourceOp_fields (applyRevoked_op _ _ _ s) i
    case claimGranted => exact sourceOp_fields (applyGranted_op _ _ _ s) i
    case candidateLost => exact sourceOp_fields (applyLost_op _ _ _ s) i
    case expiryReport => exact sourceOp_fields (applyExpiry_op _ _ _ s) i
    case slotGrant => exact sourceOp_fields (applyGrant_op _ _ _ _ s) i
    case attachReport | runReport =>
      obtain ⟨hrouting, howner, hlock, henable⟩ := (attemptWhere_frame _ s).2 i
      exact ⟨hrouting, howner, hlock, henable⟩
  · exact same (ha s) (by simp)
  · obtain ⟨u, hu, ht⟩ := ha s
    have hsrc : (act s).src i = u.src i := (calm_of_link ht).src i
    rw [hsrc]
    exact same hu.1 (by simp)

theorem SourceEdit.fields {c : Instr} {s t : State} (h : SourceEdit c s t) (j : SourceId) :
    sameFields (s.src j) (t.src j) ∨ fieldsMove (∃ p, c = .tableReset p) (s.src j) (t.src j) := by
  have keep : ∀ r, sameFields r r ∨ fieldsMove (∃ p, c = .tableReset p) r r := fun r => .inl (sameFields_refl r)
  have set : ∀ {i : SourceId} {r : Source}, fieldsMove (∃ p, c = .tableReset p) (s.src i) r →
      sameFields (s.src j) ((s.setSrc i r).src j) ∨
        fieldsMove (∃ p, c = .tableReset p) (s.src j) ((s.setSrc i r).src j) := by
    intro i r hm
    rw [State.setSrc_src]
    split
    · next e => subst e; exact .inr hm
    · exact keep _
  cases h with
  | unchanged => exact keep _
  | routed i block r unlocked off valid =>
    exact set ⟨unlocked, fun h => absurd h (by simp [unlocked]), .inr (.inl off)⟩
  | enabled i unlocked off =>
    have htell := sourceOp_fields (tellLine_op i .enableReport
      (s.setSrc i { s.src i with state := .idle, enable := true })) j
    by_cases e : j = i
    · subst e
      rw [State.setSrc_src_same] at htell
      refine .inr ⟨unlocked, fun h => ?_, .inl htell.routing⟩
      rw [htell.lock] at h
      exact absurd h (by simp [unlocked])
    · rw [State.setSrc_src_ne _ _ _ _ e] at htell
      exact .inl htell
  | disabled i unlocked =>
    obtain ⟨-, hothers, hrouting, howner, hlock⟩ := disableSource_frame i s
    by_cases e : j = i
    · subst e
      exact .inr ⟨unlocked, fun h => absurd (hlock.symm.trans h) (by simp [unlocked]), .inl hrouting⟩
    · exact .inl (sameFields_of_eq (hothers j e))
  | ownerSet i o ms unlocked =>
    exact set ⟨unlocked, fun h => absurd h (by simp [unlocked]), .inl rfl⟩
  | lockSet i unlocked owned => exact set ⟨unlocked, fun _ => owned, .inl rfl⟩
  | raised i p b w => exact .inl (sourceOp_fields (raiseOn_op i w s) j)
  | cleared p command =>
    rw [State.send_src, (resetTable_frame s).2 j]
    cases hl : (s.src j).lock with
    | true => exact keep _
    | false => exact .inr ⟨hl, nofun, .inr (.inr ⟨rfl, p, command⟩)⟩

/-- The record of a source as chip reset ends. -/
theorem chipResetPart_src (ssel : BitVec 3) (s : State) (i : SourceId) :
    (chipResetPart ssel s).src i = sourceAfterChipReset i (s.src i) := by
  simp [chipResetPart, freshPart, State.src]

/-- What any row but POWER_UP can do to these fields of a source. -/
theorem exec_fields {c : Instr} {s t : State} (h : exec c s = .next t)
    (hpower : ∀ ssel lin crst prst, c ≠ .powerUp ssel lin crst prst) (i : SourceId) :
    sameFields (s.src i) (t.src i) ∨
    fieldsMove ((∃ ssel, c = .crstRelease ssel) ∨ ∃ p, c = .tableReset p) (s.src i) (t.src i) := by
  have quiet : ∀ {u v : State}, calm u v → v.src i = u.src i := fun h => h.src i
  rcases exec_cases h with hc | ⟨act, u, ha, hsu, hut⟩ | ⟨p, a, body, u, hp, ha, hb, hsu, -, hut⟩ |
    ⟨p, -, rfl⟩ | ⟨ssel, lin, crst, prst, rfl⟩ | ⟨ssel, rfl, hcrst⟩
  · exact .inl (sameFields_of_eq (quiet hc))
  · rw [quiet hut, ← quiet hsu]
    exact .inl (eventAct_fields ha u i)
  · rw [quiet hut, ← quiet hsu]
    have same : ∀ {l : List Part}, sameBut l u (body u).1 → Part.sources ∉ l →
        sameFields (u.src i) ((body u).1.src i) :=
      fun ht hl => sameFields_of_eq (by rw [State.src, ht .sources hl]; rfl)
    rcases commandBody_kinds hb with hk | hk | hk | hk
    · rw [commandBody_read hb hk]; exact .inl (sameFields_refl _)
    · exact .inl (same (commandBody_control hb hk u) (by simp))
    · exact ((commandBody_edit hb hk u).fields i).imp_right fun m =>
        ⟨m.unlocked, m.owned, m.routing.imp_right (Or.imp_right (And.imp_right .inr))⟩
    · exact .inl (same (commandBody_session hb hk u) (by simp))
  · exact .inl (sameFields_of_eq (by
      rw [judgeAttn_src, State.src, resetPort_frame p s .sources (by simp)]; rfl))
  · exact absurd rfl (hpower ssel lin crst prst)
  · rw [exec_crstRelease ssel hcrst] at h
    rw [← Host.Outcome.next.inj h, State.send_src, chipResetPart_src, sourceAfterChipReset]
    cases hl : (s.src i).lock with
    | true => exact .inl ⟨rfl, rfl, by simp [hl], rfl⟩
    | false => exact .inr ⟨hl, nofun, .inr (.inr ⟨rfl, .inl ⟨ssel, rfl⟩⟩)⟩

/-- Settles O60, from what any row but POWER_UP can do to the fields. -/
theorem routingFieldsKept : Obligations.RoutingFieldsKept := by
  unfold Obligations.RoutingFieldsKept
  constructor
  · intro c i s t hlock h hpower
    rcases exec_fields h hpower i with hsame | hmove
    · exact ⟨hsame.routing, hsame.owner, hsame.lock.trans hlock, hsame.enable⟩
    · exact absurd hlock (by simp [hmove.unlocked])
  · intro c i s t h hne
    by_cases hpower : ∃ ssel lin crst prst, c = .powerUp ssel lin crst prst
    · exact .inr (.inl hpower)
    · rcases exec_fields h (fun ssel lin crst prst e => hpower ⟨ssel, lin, crst, prst, e⟩) i with hsame | hmove
      · exact absurd hsame.routing hne
      · rcases hmove.routing with hr | hoff | ⟨hoff, hreset⟩
        · exact absurd hr hne
        · exact .inl hoff
        · exact .inr (.inr ⟨hmove.unlocked, hoff, hreset⟩)

end Sys2Proof.Machine
end

section
/-! PROOFS. What a Delivery Unit and the state of its port can go through in a step. -/

namespace Sys2Proof.Machine

/-! ### The admission arbiter's whole run (R63, R64) -/

/-- What a run that may take every owed placement does: it moves some of them, in its order, to the end of the entries with
their reports, and stops only when the entries are full or nothing is owed. -/
theorem admissions_run (now : Time) (p : Port) (n : Nat) (d : DeliveryUnit) (h : d.owed.length ≤ n) :
    ((admissions now p n d).1.entries.length < 16 → (admissions now p n d).1.owed = []) ∧
    (d.entries.length ≤ 16 → (admissions now p n d).1.entries.length ≤ 16) ∧
    ∃ moved : List Owed,
      (admissions now p n d).1.entries = d.entries ++ moved.map (·.entry) ∧
      (moved ++ (admissions now p n d).1.owed).Perm d.owed ∧
      (admissions now p n d).2 = moved.flatMap fun o => admissionReports p o.entry := by
  induction n generalizing d with
  | zero =>
    have hd : d.owed = [] := List.length_eq_zero_iff.1 (by omega)
    exact ⟨fun _ => hd, id, [], by simp [admissions], by simp [admissions], by simp [admissions]⟩
  | succ n ih =>
    by_cases hroom : d.entries.length < 16
    · cases hb : bestOwed now d.owed with
      | none =>
        have hd := bestOwed_none hb
        rw [admissions_nothing hd]
        exact ⟨fun _ => hd, id, [], by simp, by simp, by simp⟩
      | some o =>
        have hlen := List.length_erase_of_mem (bestOwed_mem hb)
        obtain ⟨hstop, hfull, moved, hentries, hperm, hsent⟩ :=
          ih { d with entries := d.entries ++ [o.entry], owed := d.owed.erase o } (by simp only [hlen]; omega)
        have step : admissions now p (n + 1) d =
            ((admissions now p n { d with entries := d.entries ++ [o.entry], owed := d.owed.erase o }).1,
              admissionReports p o.entry ++
                (admissions now p n { d with entries := d.entries ++ [o.entry], owed := d.owed.erase o }).2) := by
          simp [admissions, Config.queueCapacity, hroom, hb]
        rw [step]
        refine ⟨hstop, fun _ => hfull (by simp only [List.length_append, List.length_singleton]; omega),
          o :: moved, ?_, ?_, ?_⟩
        · rw [hentries]; simp
        · exact (hperm.cons o).trans (List.perm_cons_erase (bestOwed_mem hb)).symm
        · rw [hsent]; rfl
    · rw [admissions_full (by omega)]
      exact ⟨fun h => absurd h hroom, id, [], by simp, by simp, by simp⟩

/-- The unit after the arbiter's run. -/
def admitted (now : Time) (p : Port) (d : DeliveryUnit) : DeliveryUnit := (admissions now p d.owed.length d).1

theorem runAdmission_unit (p : Port) (s : State) : (runAdmission p s).unit p = admitted s.time p (s.unit p) := by
  simp [runAdmission, admitted]

theorem runAdmission_time (p : Port) (s : State) : (runAdmission p s).time = s.time := by simp [runAdmission]

/-- The sources of the entries and of the owed placements. -/
def sourcesOf (d : DeliveryUnit) : List SourceId := d.entries.map (·.id.source) ++ d.owed.map (·.entry.id.source)

theorem admitted_sources (now : Time) (p : Port) (d : DeliveryUnit) :
    (sourcesOf (admitted now p d)).Perm (sourcesOf d) := by
  obtain ⟨-, -, moved, hentries, hperm, -⟩ := admissions_run now p d.owed.length d le_rfl
  have ho := hperm.map fun o : Owed => o.entry.id.source
  rw [List.map_append] at ho
  simp only [sourcesOf, admitted, hentries, List.map_append, List.map_map, List.append_assoc]
  exact ho.append_left _

theorem admitted_frame (now : Time) (p : Port) (d : DeliveryUnit) :
    admitted now p d = { d with entries := (admitted now p d).entries, owed := (admitted now p d).owed } :=
  admissions_frame now p _ d

theorem admitted_notices (now : Time) (p : Port) (d : DeliveryUnit) : (admitted now p d).notices = d.notices := by
  rw [admitted_frame]

theorem admitted_slots (now : Time) (p : Port) (d : DeliveryUnit) : (admitted now p d).slots = d.slots := by
  rw [admitted_frame]

theorem admitted_revoked (now : Time) (p : Port) (d : DeliveryUnit) : (admitted now p d).revoked = d.revoked := by
  rw [admitted_frame]

theorem admitted_claims (now : Time) (p : Port) (d : DeliveryUnit) : (admitted now p d).claims = d.claims := by
  rw [admitted_frame]

theorem withoutStale_sources (i : SourceId) (d : DeliveryUnit) :
    sourcesOf (withoutStale i d) = (sourcesOf d).filter (· ≠ i) := by
  simp [sourcesOf, withoutStale, List.filter_map, Function.comp_def]

/-! ### Moves -/

/-- One thing that happens to a Delivery Unit and its port's state. -/
inductive UnitMove : PortState × DeliveryUnit → PortState × DeliveryUnit → Prop where
  /-- Power-up, or the end of chip reset (R167, R169). -/
  | fresh x : UnitMove x (.detached, powerUpUnit)
  /-- ATTACH (R126). -/
  | began d : UnitMove (.detached, d) (.attached, { d with seq := 0#8, revoked := [] })
  /-- The end of a session, with its handback (R129). -/
  | handedBack d next (out : next ≠ .attached) : UnitMove (.attached, d) (next, unitAfterHandback d)
  /-- A port without a session changes its state (R133, R136). -/
  | movedOut ps d next (was : ps ≠ .attached) (out : next ≠ .attached) : UnitMove (ps, d) (next, d)
  /-- HOLD, RESUME, SET_MASK, SET_GATE, SET_LIMIT and what PnRST restores (R78, R79, R61, R108, R136). -/
  | set ps d mask gateOpen gateOnTake limit :
      UnitMove (ps, d) (ps, { d with mask := mask, gateOpen := gateOpen, gateOnTake := gateOnTake, limit := limit })
  /-- A placement is admitted at once in the place of a stale one (R65). -/
  | admittedNew now p e d (room : (withoutStale e.id.source d).entries.length < 16) :
      UnitMove (.attached, d) (.attached, admitted now p
        { withoutStale e.id.source d with entries := (withoutStale e.id.source d).entries ++ [e] })
  /-- A placement becomes owed once the stale one has gone and, it may be, another has taken the freed entry (R62, R65). -/
  | owedNew now p o d d₀ (freed : d₀ = withoutStale o.entry.id.source d ∨
        d₀ = admitted now p (withoutStale o.entry.id.source d)) :
      UnitMove (.attached, d) (.attached, admitted now p { d₀ with owed := d₀.owed ++ [o] })
  /-- A withdrawal takes an entry, and the arbiter runs (R66). -/
  | entryWithdrawn ps now p id d :
      UnitMove (ps, d) (ps, admitted now p { d with entries := d.entries.filter (·.id ≠ id) })
  /-- A withdrawal takes an owed placement (R66). -/
  | owedWithdrawn ps id d : UnitMove (ps, d) (ps, { d with owed := d.owed.filter (·.entry.id ≠ id) })
  /-- A posting (R75). -/
  | noticed now kind subject d :
      UnitMove (.attached, d) (.attached, { d with notices := addNotice now kind subject d.notices })
  /-- A delivery leaves its slot for the revoked list (R113, R116). -/
  | revoked ps d k r (held : d.slot k = .held r) :
      UnitMove (ps, d) (ps, { d.setSlot k .free with revoked := enterRevoked d.revoked r.seq })
  /-- A removal marks the claims of its batch (R116). -/
  | marked ps d i ref :
      UnitMove (ps, d) (ps, { d with claims := d.claims.map fun c =>
        if c.entry.id.source = i ∧ c.entry.id.ref = ref then { c with removal := true } else c })
  /-- A claim lost, or of an ended session, releases its slot (R72, R73). -/
  | claimClosed ps d c :
      UnitMove (ps, d) (ps, ({ d with claims := d.claims.erase c } : DeliveryUnit).setSlot c.slot .free)
  /-- A claim granted puts its delivery in the reserved slot (R72). -/
  | claimGranted ps now d c (inFlight : c ∈ d.claims) (session : c.ended = false) :
      UnitMove (ps, d) (ps, enterService now c.slot .shared c.entry { d with claims := d.claims.erase c })
  /-- A claim granted whose removal has waited (R117). -/
  | claimRemoved ps d c (inFlight : c ∈ d.claims) (session : c.ended = false) :
      UnitMove (ps, d) (ps,
        { ({ d with claims := d.claims.erase c } : DeliveryUnit).setSlot c.slot .free with
          seq := assignedSeq { d with claims := d.claims.erase c },
          gateOpen := gateAfterTake { d with claims := d.claims.erase c },
          revoked := enterRevoked d.revoked (assignedSeq { d with claims := d.claims.erase c }) })
  /-- TAKE of a notice (R70). -/
  | tookNotice ps d n : UnitMove (ps, d) (ps, { d with notices := d.notices.erase n, gateOpen := gateAfterTake d })
  /-- TAKE of a delivery (R71). -/
  | tookDelivery now p k kind e d :
      UnitMove (.attached, d)
        (.attached, admitted now p (enterService now k kind e { d with entries := d.entries.erase e }))
  /-- TAKE of an offer (R72). -/
  | tookOffer now p k e d :
      UnitMove (.attached, d) (.attached, admitted now p
        { d.setSlot k (.reserved e.id) with
          entries := d.entries.erase e,
          claims := d.claims ++ [{ entry := e, slot := k, removal := false, ended := false }] })
  /-- DONE of a held number (R110). -/
  | completed ps d k : UnitMove (ps, d) (ps, d.setSlot k .free)
  /-- DONE of a revoked number (R111). -/
  | forgotten ps d seq : UnitMove (ps, d) (ps, { d with revoked := d.revoked.erase seq })

/-- The state of a port and its Delivery Unit. -/
def desk (s : State) (p : Port) : PortState × DeliveryUnit := ((s.port p).pstate, s.unit p)

/-- Every port and its unit have gone through some moves, or none. -/
def moves (s t : State) : Prop := ∀ p, Relation.ReflTransGen UnitMove (desk s p) (desk t p)

theorem moves_refl (s : State) : moves s s := fun _ => .refl

theorem moves_trans {s t u : State} (h : moves s t) (h' : moves t u) : moves s u := fun p => (h p).trans (h' p)

theorem moves_of_calm {s t : State} (h : calm s t) : moves s t := fun p => by
  have e : desk t p = desk s p := by simp [desk, h.pstate, h.unit]
  rw [e]

/-- Nothing happens to the units of a part whose ports and units stay. -/
theorem moves_of_sameBut {l : List Part} {s t : State} (h : sameBut l s t) (hu : Part.units ∉ l) (hp : Part.ports ∉ l) :
    moves s t := fun p => by
  have hunits : t.units = s.units := h .units hu
  have hports : t.ports = s.ports := h .ports hp
  have e : desk t p = desk s p := by simp [desk, State.port, State.unit, hunits, hports]
  rw [e]

theorem moves_send (s : State) (ms : List Instr) : moves s (s.send ms) :=
  moves_of_sameBut (l := [.messages]) (by simp [sameBut_iff]) (by simp) (by simp)

/-- An operation of one Delivery Unit is what happens to that unit. -/
theorem moves_of_unitOp {p : Port} {s t : State} (h : unitOp p s t)
    (hm : Relation.ReflTransGen UnitMove (desk s p) ((s.port p).pstate, t.unit p)) : moves s t := fun q => by
  have hports : t.ports = s.ports := h.1 .ports (by simp)
  have hport : ∀ r, t.port r = s.port r := fun r => by simp [State.port, hports]
  by_cases e : q = p
  · subst e; simpa [desk, hport] using hm
  · have same : desk t q = desk s q := by simp [desk, hport, h.2 q e]
    rw [same]

/-! ### Placements and withdrawals -/

theorem takePlacement_moves (p : Port) (e : Placement) (s : State) : moves s (takePlacement p e s) := by
  refine moves_of_unitOp (takePlacement_op p e s) ?_
  cases hp : (s.port p).pstate with
  | attached =>
    have hatt : attached s p = true := (attached_iff s p).2 hp
    have hd : desk s p = (.attached, s.unit p) := by simp [desk, hp]
    rw [hd]
    refine .single ?_
    simp only [takePlacement, hatt, if_true]
    split
    · next hroom =>
      split
      · have e₁ := UnitMove.admittedNew s.time p e (s.unit p) hroom.2
        simpa [admitAtOnce, runAdmission_unit] using e₁
      · have e₁ := UnitMove.owedNew s.time p { entry := e, since := s.time } (s.unit p) _ (.inr rfl)
        simpa [owePlacement, runAdmission_unit, runAdmission_time] using e₁
    · have e₁ := UnitMove.owedNew s.time p { entry := e, since := s.time } (s.unit p) _ (.inl rfl)
      simpa [owePlacement, runAdmission_unit] using e₁
  | detached | evicted =>
    have hatt : attached s p = false := by simp [attached, hp]
    simp only [takePlacement, hatt, Bool.false_eq_true, if_false, State.send_unit, desk, hp]
    exact .refl

theorem takeWithdrawal_moves (p : Port) (id : EntryId) (s : State) : moves s (takeWithdrawal p id s) := by
  refine moves_of_unitOp (takeWithdrawal_op p id s) (.single ?_)
  simp only [takeWithdrawal]
  split
  · simpa [runAdmission_unit, desk] using UnitMove.entryWithdrawn (s.port p).pstate s.time p id (s.unit p)
  · simpa [desk] using UnitMove.owedWithdrawn (s.port p).pstate id (s.unit p)

/-! ### Notices and removals -/

theorem takeNotice_moves (p : Port) (kind : NoticeKind) (subject : Subject) (s : State) :
    moves s (takeNotice p kind subject s) := by
  refine moves_of_unitOp (takeNotice_op p kind subject s) ?_
  by_cases ha : (s.port p).pstate = .attached
  · rw [takeNotice_attached kind subject ha]
    simp only [State.setUnit_unit_same, desk, ha]
    exact .single (.noticed s.time kind subject (s.unit p))
  · rw [takeNotice_notAttached kind subject ha]
    exact .refl

theorem takeRemoval_moves (p : Port) (i : SourceId) (ref : Nat) (s : State) : moves s (takeRemoval p i ref s) := by
  refine moves_of_unitOp (takeRemoval_op p i ref s) (.single ?_)
  simp only [takeRemoval]
  split
  · next k r hfound =>
    rw [State.setUnit_unit_same]
    exact .revoked _ _ k r (findHeld_spec hfound).1
  · rw [State.setUnit_unit_same]
    exact .marked _ _ i ref

theorem expireService_moves (p : Port) (k : ServiceSlotId) (s : State) : moves s (expireService p k s) := by
  simp only [expireService]
  split
  · next r hheld =>
    split
    · split
      · have hset : moves s (s.setUnit p
            { (s.unit p).setSlot k .free with revoked := enterRevoked (s.unit p).revoked r.seq }) :=
          moves_of_unitOp (unitOp_set p s _) (by
            rw [State.setUnit_unit_same]; exact .single (.revoked _ _ k r hheld))
        exact moves_trans hset (moves_trans (takeNotice_moves _ _ _ _)
          (moves_send _ _))
      · exact moves_refl s
    · exact moves_refl s
  · exact moves_refl s

/-! ### The answer to a claim -/

theorem moves_of_link {s t : State} (h : linkOp s t) : moves s t := moves_of_calm (calm_of_link h)

theorem takeAnswer_moves (p : Port) (i : SourceId) (ref round : Nat) (granted : Bool) (s : State) :
    moves s (takeAnswer p i ref round granted s) := by
  simp only [takeAnswer]
  split
  · exact moves_refl s
  · next c hfind =>
    have hmem : c ∈ (s.unit p).claims := List.mem_of_find?_eq_some hfind
    have write : ∀ d, UnitMove (desk s p) ((s.port p).pstate, d) →
        moves s ((s.setUnit p { s.unit p with claims := (s.unit p).claims.erase c }).setUnit p d) := fun d hd =>
      moves_of_unitOp (unitOp_trans (unitOp_set p s _) (unitOp_set p _ _)) (by
        rw [State.setUnit_unit_same]; exact .single hd)
    have close := write _ (.claimClosed (s.port p).pstate (s.unit p) c)
    split
    · simp only [answerEnded]
      refine moves_trans (t := if granted = true then _ else _) ?_ (moves_of_link (settleEvicted_op p c.entry.id _))
      split
      · refine moves_trans ?_ (moves_send _ _)
        simpa using close
      · simpa using close
    · next hended =>
      have hsession : c.ended = false := by simpa using hended
      split
      · split
        · simp only [answerRemoved]
          refine moves_trans ?_ (moves_of_link (settleTake_op p c.entry.id _ _))
          simpa using write _ (.claimRemoved (s.port p).pstate (s.unit p) c hmem hsession)
        · simp only [answerGranted]
          refine moves_trans ?_ (moves_of_link (settleTake_op p c.entry.id _ _))
          simpa using write _ (.claimGranted (s.port p).pstate s.time (s.unit p) c hmem hsession)
      · simp only [answerLost]
        refine moves_trans ?_ (moves_of_link (settleTake_op p c.entry.id _ _))
        simpa using close

/-! ### Sessions -/

theorem leaveSession_moves (p : Port) {next : PortState} (hn : next ≠ .attached) (s : State) :
    moves s (leaveSession p next s) := fun q => by
  obtain ⟨-, hport, hports, hunits⟩ := leaveSession_frame p next s
  by_cases e : q = p
  · subst e
    refine .single ?_
    by_cases ha : (s.port q).pstate = .attached
    · simpa [desk, ha, leaveSession, handback] using UnitMove.handedBack (s.unit q) next hn
    · simpa [desk, leaveSession, ha] using UnitMove.movedOut (s.port q).pstate (s.unit q) next ha hn
  · have same : desk (leaveSession p next s) q = desk s q := by simp [desk, hports q e, hunits q e]
    rw [same]

theorem resetPort_moves (p : Port) (s : State) : moves s (resetPort p s) := by
  rw [resetPort_eq]
  have hdrop : calm s (dropCommands p s) :=
    calm_trans (t := s.setPort p { abandonFrame (s.port p) with inReset := true, csIgnored := false })
      (calm_setPort (by rfl)) ⟨rfl, rfl, rfl, rfl, fun _ => rfl⟩
  refine moves_trans (moves_of_calm hdrop) (moves_trans (leaveSession_moves p (next := .detached) (by simp) _) ?_)
  refine moves_trans (t := (leaveSession p .detached (dropCommands p s)).setUnit p
    (resetSettings ((leaveSession p .detached (dropCommands p s)).unit p))) ?_ ?_
  · exact moves_of_unitOp (unitOp_set p _ _) (by
      rw [State.setUnit_unit_same]; exact .single (.set _ _ _ _ _ _))
  · exact moves_of_calm (calm_setPort (by rfl))

theorem attachBody_moves {p : Port} {s : State} (tag : Word) (h : (s.port p).pstate = .detached) :
    moves s (attachBody p tag s).1 := fun q => by
  by_cases e : q = p
  · subst e
    refine .single ?_
    simpa [desk, attachBody, accept, h] using UnitMove.began (s.unit q)
  · have same : desk (attachBody p tag s).1 q = desk s q := by
      simp [desk, attachBody, accept, State.setUnit_unit_ne, State.setPort_port_ne, e]
    rw [same]

/-! ### TAKE, DONE and the settings -/

theorem takeDelivery_moves {p : Port} {s : State} (k : ServiceSlotId) (kind : Form) (e : Placement)
    (h : (s.port p).pstate = .attached) : moves s (takeDelivery p k kind e s).1 := by
  refine moves_of_unitOp (unitOp_trans (unitOp_set p s _) (unitOp_trans (unitOp_send p _ _) (runAdmission_op p _)))
    (.single ?_)
  simpa [takeDelivery, desk, h, runAdmission_unit] using UnitMove.tookDelivery s.time p k kind e (s.unit p)

theorem takeOffer_moves {p : Port} {s : State} (k : ServiceSlotId) (round : Nat) (e : Placement)
    (h : (s.port p).pstate = .attached) : moves s (takeOffer p k round e s).1 := by
  simp only [takeOffer]
  refine moves_trans (moves_of_unitOp (unitOp_trans (unitOp_set p s _)
    (unitOp_trans (unitOp_send p _ _) (runAdmission_op p _))) (.single ?_)) (moves_of_calm (calm_setPort (by rfl)))
  simpa [desk, h, runAdmission_unit] using UnitMove.tookOffer s.time p k e (s.unit p)

theorem takeBody_moves {p : Port} {s : State} (h : (s.port p).pstate = .attached) : moves s (takeBody p s).1 := by
  simp only [takeBody]
  split
  · exact moves_refl s
  · next n _ =>
    refine moves_of_unitOp (unitOp_set p s _) (.single ?_)
    simpa [takeNoticeItem, desk] using UnitMove.tookNotice (s.port p).pstate (s.unit p) n
  · split
    · exact moves_refl s
    · split
      · exact takeDelivery_moves _ _ _ h
      · exact takeDelivery_moves _ _ _ h
      · exact takeDelivery_moves _ _ _ h
      · exact takeOffer_moves _ _ _ h

theorem setUnit_moves {p : Port} {s : State} {d : DeliveryUnit} (h : UnitMove (desk s p) ((s.port p).pstate, d)) :
    moves s (s.setUnit p d) :=
  moves_of_unitOp (unitOp_set p s d) (by rw [State.setUnit_unit_same]; exact .single h)

theorem doneBody_moves (p : Port) (seq : Byte) (s : State) : moves s (doneBody p seq s).1 := by
  simp only [doneBody]
  split
  · next k r _ =>
    exact moves_trans (setUnit_moves (.completed _ _ k)) (moves_send _ _)
  · split
    · exact setUnit_moves (.forgotten _ _ seq)
    · exact moves_refl s

/-- What a command of a session does to the units, once R125's check is passed. -/
theorem commandBody_moves {c : Instr} {p : Port} {a : Access} {body : Body} {s : State} (h : commandBody c = some body)
    (hp : framePort c = some p) (ha : accessOf c = some a) (hc : sessionCommand c = true)
    (hcheck : portCheck a (s.port p).pstate = none) : moves s (body s).1 := by
  cases c <;> try (cases hc; done)
  all_goals cases h; cases hp; cases ha
  case attach tag =>
    refine attachBody_moves tag ?_
    cases hs : (s.port p).pstate with
    | detached => rfl
    | attached | evicted => rw [hs] at hcheck; cases hcheck
  case detach => exact leaveSession_moves p (by simp) s
  case evict b =>
    unfold evictBody
    rcases steered_cases (.evict p b) p _ s with e | e <;> rw [e]
    · exact moves_refl s
    · split
      · exact moves_refl s
      · split
        · exact moves_refl s
        · exact leaveSession_moves _ (by simp) s
  case take =>
    refine takeBody_moves ?_
    cases hs : (s.port p).pstate with
    | attached => rfl
    | detached | evicted => rw [hs] at hcheck; cases hcheck
  case doneSeq seq => exact doneBody_moves p seq s
  case hold => exact setUnit_moves (.set _ _ _ _ _ _)
  case resume => exact setUnit_moves (.set _ _ _ _ _ _)
  case setMask mask => exact setUnit_moves (.set _ _ _ _ _ _)
  case setGate mode =>
    unfold setGateBody
    split
    · exact setUnit_moves (.set _ _ _ _ _ _)
    · split
      · exact setUnit_moves (.set _ _ _ _ _ _)
      · exact moves_refl s
  case setLimit ms =>
    unfold setLimitBody
    split
    · exact setUnit_moves (.set _ _ _ _ _ _)
    · exact moves_refl s

/-! ### A row -/

theorem eventAct_moves {c : Instr} {act : State → State} (h : eventAct c = some act) (s : State) : moves s (act s) := by
  rcases eventAct_cases h with ha | ⟨-, ha⟩ | ⟨-, ha⟩ | ⟨p, hc, -⟩
  · exact moves_of_sameBut (ha s) (by simp) (by simp)
  · exact moves_of_sameBut (ha s) (by simp) (by simp)
  · exact moves_of_sameBut (ha s) (by simp) (by simp)
  · cases c <;> try (cases hc; done)
    case placement q e => cases h; exact takePlacement_moves q e s
    case withdrawalRequest q id => cases h; exact takeWithdrawal_moves q id s
    case noticePosting q kind subject => cases h; exact takeNotice_moves q kind subject s
    case removalRequest q i ref => cases h; exact takeRemoval_moves q i ref s
    case claimAnswer q i ref round granted => cases h; exact takeAnswer_moves q i ref round granted s
    case serviceDeadlineExpiry q k => cases h; exact expireService_moves q k s

theorem moves_of_fresh {s t : State} (h : ∀ p, desk t p = (.detached, powerUpUnit)) : moves s t := fun p => by
  rw [h p]; exact .single (.fresh _)

theorem freshPart_desk (s : State) (ssel : BitVec 3) (lin : BitVec 32) (sources : Vector Source 48)
    (lines : Vector Line 32) (inReset csIgnored : Port → Bool) (crst powerHold : Bool) (cause : ResetCause) (p : Port) :
    desk (freshPart s ssel lin sources lines inReset csIgnored crst powerHold cause) p = (.detached, powerUpUnit) := by
  rw [desk, freshPart_port]
  simp [State.unit, freshPart, powerUpPort]

theorem powerUpPart_desk (ssel : BitVec 3) (lin : BitVec 32) (crst : Bool) (prst : PortSet) (s : State) (p : Port) :
    desk (powerUpPart ssel lin crst prst s) p = (.detached, powerUpUnit) := by
  rw [powerUpPart, freshPart_desk]

theorem chipResetPart_desk (ssel : BitVec 3) (s : State) (p : Port) :
    desk (chipResetPart ssel s) p = (.detached, powerUpUnit) := by
  rw [chipResetPart, freshPart_desk]

/-- Whatever a row does, the units go through such moves. -/
theorem exec_moves {c : Instr} {s t : State} (h : exec c s = .next t) : moves s t := by
  rcases exec_cases h with hc | ⟨act, u, ha, hsu, hut⟩ | ⟨p, a, body, u, hp, ha, hb, hsu, hcheck, hut⟩ |
    ⟨p, -, rfl⟩ | ⟨ssel, lin, crst, prst, rfl⟩ | ⟨ssel, rfl, hcrst⟩
  · exact moves_of_calm hc
  · exact moves_trans (moves_of_calm hsu) (moves_trans (eventAct_moves ha u) (moves_of_calm hut))
  · refine moves_trans (moves_of_calm hsu) (moves_trans ?_ (moves_of_calm hut))
    rcases commandBody_kinds hb with hk | hk | hk | hk
    · rw [commandBody_read hb hk]; exact moves_refl u
    · exact moves_of_sameBut (commandBody_control hb hk u) (by simp) (by simp)
    · exact moves_of_sameBut (commandBody_edit hb hk u).frame (by simp) (by simp)
    · exact commandBody_moves hb hp ha hk hcheck
  · exact moves_trans (resetPort_moves p s) (moves_of_calm (calm_judgeAttn _))
  · rw [exec_powerUp] at h
    rw [← Host.Outcome.next.inj h]
    exact moves_of_fresh (powerUpPart_desk ssel lin crst prst s)
  · rw [exec_crstRelease ssel hcrst] at h
    rw [← Host.Outcome.next.inj h]
    exact moves_trans (moves_of_fresh (chipResetPart_desk ssel s)) (moves_send _ _)

/-- A law of one unit and its port's state that every move keeps is kept, for every port, by every step. -/
theorem step_keeps_unit {L : PortState × DeliveryUnit → Prop} (hmove : ∀ {x y}, UnitMove x y → L x → L y) {s t : State}
    (h : step s = .next t) (hs : ∀ p, L (desk s p)) : ∀ p, L (desk t p) := by
  have lift : ∀ {x y}, Relation.ReflTransGen UnitMove x y → L x → L y := by
    intro x y hxy hx
    induction hxy with
    | refl => exact hx
    | tail _ hlast ih => exact hmove hlast ih
  exact step_keeps (P := fun s => ∀ p, L (desk s p)) (fun hc hs p => lift (moves_of_calm hc p) (hs p))
    (fun he hs p => lift (exec_moves he p) (hs p)) h hs

end Sys2Proof.Machine
end

section
/-! PROOFS. Sequence numbers (R74), and the laws of the queues, the numbers, the absent ports and the open offers (R59, R106,
R112, R132, R82). -/

namespace Sys2Proof.Machine

/-! ### The number assigned next (R74) -/

theorem seqInUse_iff (d : DeliveryUnit) (n : Byte) : seqInUse d n = true ↔ n ∈ heldSeqs d ∨ n ∈ d.revoked := by
  simp [seqInUse]

/-- The counter stops at the first number that is not in use. -/
theorem stepSeq_first (d : DeliveryUnit) (fuel : Nat) (n : Byte)
    (h : ∃ m, m < fuel ∧ seqInUse d (nextSeq^[m + 1] n) = false) :
    ∃ m, m < fuel ∧ stepSeq d fuel n = nextSeq^[m + 1] n ∧ seqInUse d (nextSeq^[m + 1] n) = false ∧
      ∀ j, j < m → seqInUse d (nextSeq^[j + 1] n) = true := by
  induction fuel generalizing n with
  | zero => obtain ⟨m, hm, -⟩ := h; omega
  | succ fuel ih =>
    cases hu : seqInUse d (nextSeq n) with
    | false => exact ⟨0, by omega, by simp [stepSeq, hu], by simpa using hu, by omega⟩
    | true =>
      obtain ⟨m, hm, hfree⟩ := h
      obtain ⟨m', rfl⟩ : ∃ m', m = m' + 1 := by
        cases m with
        | zero => simp [hu] at hfree
        | succ m' => exact ⟨m', rfl⟩
      obtain ⟨k, hk, hstep, hkfree, hbefore⟩ := ih (nextSeq n) ⟨m', by omega, hfree⟩
      refine ⟨k + 1, by omega, by rw [stepSeq, if_pos hu, hstep]; rfl, hkfree, fun j hj => ?_⟩
      cases j with
      | zero => exact hu
      | succ j => exact hbefore j (by omega)

/-- Fewer numbers are in use than the counter passes in its cycle. -/
theorem exists_free_number (d : DeliveryUnit) (h : d.revoked.length ≤ 4) :
    ∃ m, m < 255 ∧ seqInUse d (nextSeq^[m + 1] d.seq) = false := by
  by_contra hc
  push Not at hc
  have hused : ∀ m, m < 255 → nextSeq^[m + 1] d.seq ∈ heldSeqs d ++ d.revoked := fun m hm =>
    List.mem_append.2 ((seqInUse_iff _ _).1 (by simpa using hc m hm))
  have hnodup : ((List.range 255).map fun m => nextSeq^[m + 1] d.seq).Nodup := by
    refine List.Nodup.map_on (fun a ha b hb e => ?_) List.nodup_range
    have ha' := List.mem_range.1 ha
    have hb' := List.mem_range.1 hb
    have e' := congrArg BitVec.toNat e
    rw [nextSeq_iterate _ _ ha', nextSeq_iterate _ _ hb'] at e'
    omega
  have hsub : ((List.range 255).map fun m => nextSeq^[m + 1] d.seq) ⊆ heldSeqs d ++ d.revoked := by
    intro x hx
    obtain ⟨m, hm, rfl⟩ := List.mem_map.1 hx
    exact hused m (List.mem_range.1 hm)
  have hle := (hnodup.subperm hsub).length_le
  have hheld := heldSeqs_length d
  simp only [List.length_map, List.length_range, List.length_append] at hle
  omega

theorem assignedSeq_first (d : DeliveryUnit) (h : d.revoked.length ≤ 4) :
    ∃ m, m < 255 ∧ assignedSeq d = nextSeq^[m + 1] d.seq ∧ seqInUse d (assignedSeq d) = false ∧
      ∀ j, j < m → seqInUse d (nextSeq^[j + 1] d.seq) = true := by
  obtain ⟨m, hm, hstep, hfree, hbefore⟩ := stepSeq_first d 255 d.seq (exists_free_number d h)
  exact ⟨m, hm, hstep, by rw [assignedSeq, hstep, hfree], hbefore⟩

theorem assignedSeq_ne_zero (d : DeliveryUnit) (h : d.revoked.length ≤ 4) : assignedSeq d ≠ 0#8 := by
  obtain ⟨m, hm, heq, -, -⟩ := assignedSeq_first d h
  intro h0
  have e := nextSeq_iterate d.seq m hm
  rw [← heq, h0] at e
  simp at e

theorem assignedSeq_unused (d : DeliveryUnit) (h : d.revoked.length ≤ 4) :
    assignedSeq d ∉ heldSeqs d ∧ assignedSeq d ∉ d.revoked := by
  obtain ⟨m, -, -, hfree, -⟩ := assignedSeq_first d h
  rw [← Bool.not_eq_true, seqInUse_iff] at hfree
  exact not_or.1 hfree

/-- Settles O38: with at most eight numbers in use the counter meets a free one within its cycle, and it stops at the first. -/
theorem sequenceNumberAssigned : Obligations.SequenceNumberAssigned := by
  unfold Obligations.SequenceNumberAssigned
  refine ⟨fun _ => rfl, seqInUse_iff, fun d h => ?_⟩
  obtain ⟨m, hm, heq, -, hbefore⟩ := assignedSeq_first d h
  obtain ⟨hheld, hrevoked⟩ := assignedSeq_unused d h
  exact ⟨assignedSeq_ne_zero d h, hheld, hrevoked, m, hm, heq, hbefore⟩

/-! ### The law of the queues (R59) -/

theorem queueLaw_iff (d : DeliveryUnit) : queueLaw d ↔
    d.entries.length ≤ 16 ∧ (sourcesOf d).Nodup ∧ (d.notices.map (·.kind)).Nodup ∧
      (d.entries.length < 16 → d.owed = []) := Iff.rfl

theorem queueLaw_congr {d d' : DeliveryUnit} (he : d'.entries = d.entries) (ho : d'.owed = d.owed)
    (hn : d'.notices = d.notices) (h : queueLaw d) : queueLaw d' := by
  simpa [queueLaw, he, ho, hn] using h

/-- The arbiter's run makes good the one clause that a free entry breaks. -/
theorem queueLaw_admitted {now : Time} {p : Port} {d : DeliveryUnit} (hlen : d.entries.length ≤ 16)
    (hsources : (sourcesOf d).Nodup) (hnotices : (d.notices.map (·.kind)).Nodup) : queueLaw (admitted now p d) := by
  obtain ⟨hstop, hfull, -⟩ := admissions_run now p d.owed.length d le_rfl
  refine (queueLaw_iff _).2 ⟨hfull hlen, (admitted_sources now p d).nodup_iff.2 hsources, ?_, hstop⟩
  rwa [admitted_notices]

/-- A unit that has lost entries, and then has had the arbiter run. -/
theorem queueLaw_admitted_sublist {now : Time} {p : Port} {d d' : DeliveryUnit} (h : queueLaw d)
    (he : d'.entries.Sublist d.entries) (ho : d'.owed = d.owed) (hn : d'.notices = d.notices) :
    queueLaw (admitted now p d') := by
  obtain ⟨hlen, hsources, hnotices, -⟩ := h
  refine queueLaw_admitted (he.length_le.trans hlen) (hsources.sublist ?_) (by rwa [hn])
  rw [sourcesOf, ho]
  exact (he.map _).append (List.Sublist.refl _)

/-- A unit that has a new source, once the stale items of that source have gone. -/
theorem freshSource_nodup {d d₀ : DeliveryUnit} {i : SourceId} (h : (sourcesOf d).Nodup)
    (hperm : (sourcesOf d₀).Perm (sourcesOf (withoutStale i d))) : (i :: sourcesOf d₀).Nodup := by
  rw [withoutStale_sources] at hperm
  rw [List.nodup_cons, hperm.mem_iff, hperm.nodup_iff]
  exact ⟨by simp, h.filter _⟩

theorem withoutStale_length (i : SourceId) (d : DeliveryUnit) :
    (withoutStale i d).entries.length ≤ d.entries.length := List.length_filter_le ..

/-- A posting keeps the kinds of the notices apart (R75). -/
theorem addNotice_kinds (now : Time) (kind : NoticeKind) (subject : Subject) {notices : List Notice}
    (h : (notices.map (·.kind)).Nodup) : ((addNotice now kind subject notices).map (·.kind)).Nodup := by
  unfold addNotice
  split
  · have same : (notices.map fun n =>
        if n.kind = kind then { n with count := min 255 (n.count + 1), subject := subject } else n).map (·.kind) =
        notices.map (·.kind) := by
      rw [List.map_map]
      refine List.map_congr_left fun n _ => ?_
      simp only [Function.comp_apply]
      split <;> rfl
    rwa [same]
  · next hnone =>
    have habsent : kind ∉ notices.map (·.kind) := by
      intro hk
      obtain ⟨n, hn, rfl⟩ := List.mem_map.1 hk
      exact hnone (List.any_eq_true.2 ⟨n, hn, by simp⟩)
    simpa [List.nodup_append] using ⟨h, fun a ha e => habsent (List.mem_map.2 ⟨a, ha, e⟩)⟩

theorem queueLaw_kept {x y : PortState × DeliveryUnit} (hm : UnitMove x y) (h : queueLaw x.2) : queueLaw y.2 := by
  cases hm with
  | fresh => exact ⟨by simp [powerUpUnit], by simp [powerUpUnit], by simp [powerUpUnit], fun _ => rfl⟩
  | handedBack => exact ⟨by simp [unitAfterHandback], by simp [unitAfterHandback], by simp [unitAfterHandback], fun _ => rfl⟩
  | movedOut => exact h
  | began | set | revoked | marked | claimClosed | claimGranted | claimRemoved | completed | forgotten =>
    exact queueLaw_congr rfl rfl rfl h
  | admittedNew now p e d room =>
    obtain ⟨-, hsources, hnotices, -⟩ := h
    refine queueLaw_admitted (by simp only [List.length_append, List.length_singleton]; omega) ?_ hnotices
    have hn := freshSource_nodup hsources (i := e.id.source) (List.Perm.refl _)
    refine (List.Perm.nodup_iff ?_).1 hn
    simp only [sourcesOf, List.map_append, List.map_cons, List.map_nil, List.append_assoc, List.singleton_append]
    exact List.perm_middle.symm
  | owedNew now p o d d₀ freed =>
    obtain ⟨hlen, hsources, hnotices, -⟩ := h
    have hstale := (withoutStale_length o.entry.id.source d).trans hlen
    have hd₀ : d₀.entries.length ≤ 16 ∧ (sourcesOf d₀).Perm (sourcesOf (withoutStale o.entry.id.source d)) ∧
        d₀.notices = d.notices := by
      rcases freed with rfl | rfl
      · exact ⟨hstale, List.Perm.refl _, rfl⟩
      · exact ⟨(admissions_run now p _ _ le_rfl).2.1 hstale, admitted_sources now p _, admitted_notices now p _⟩
    obtain ⟨hlen₀, hperm, hnotices₀⟩ := hd₀
    refine queueLaw_admitted hlen₀ ?_ (by simpa [hnotices₀] using hnotices)
    refine (List.Perm.nodup_iff ?_).1 (freshSource_nodup hsources hperm)
    simp only [sourcesOf, List.map_append, List.map_cons, List.map_nil, ← List.append_assoc]
    exact (List.perm_append_singleton _ _).symm
  | entryWithdrawn => exact queueLaw_admitted_sublist h List.filter_sublist rfl rfl
  | owedWithdrawn ps id d =>
    obtain ⟨hlen, hsources, hnotices, howed⟩ := h
    refine ⟨hlen, hsources.sublist ?_, hnotices, fun hroom => by simp [show d.owed = [] from howed hroom]⟩
    exact (List.Sublist.refl _).append (List.filter_sublist.map _)
  | noticed now kind subject d =>
    obtain ⟨hlen, hsources, hnotices, howed⟩ := h
    exact ⟨hlen, hsources, addNotice_kinds now kind subject hnotices, howed⟩
  | tookNotice ps d n =>
    obtain ⟨hlen, hsources, hnotices, howed⟩ := h
    exact ⟨hlen, hsources, hnotices.sublist (List.erase_sublist.map _), howed⟩
  | tookDelivery => exact queueLaw_admitted_sublist h List.erase_sublist rfl rfl
  | tookOffer => exact queueLaw_admitted_sublist h List.erase_sublist rfl rfl

/-! ### The law of the sequence numbers (R106, R112) -/

/-- The law, slot by slot. -/
theorem sequenceLaw_iff (d : DeliveryUnit) : sequenceLaw d ↔
    (∀ j k n, slotSeq (d.slot j) = some n → slotSeq (d.slot k) = some n → j = k) ∧
    (∀ k n, slotSeq (d.slot k) = some n → n ≠ 0#8 ∧ n ∉ d.revoked) ∧
    d.revoked.Nodup ∧ 0#8 ∉ d.revoked ∧ d.revoked.length ≤ 4 := by
  have hmem : ∀ n, n ∈ heldSeqs d ↔ ∃ k, slotSeq (d.slot k) = some n := fun n => by
    simp [heldSeqs, List.mem_filterMap, mem_allServiceSlots]
  have hnodup : (heldSeqs d).Nodup ↔
      ∀ j k n, slotSeq (d.slot j) = some n → slotSeq (d.slot k) = some n → j = k := by
    rw [List.Nodup, heldSeqs, List.pairwise_filterMap]
    constructor
    · intro h j k n hj hk
      by_contra hne
      have hp : allServiceSlots.Pairwise fun a b => ∀ x, slotSeq (d.slot a) = some x → slotSeq (d.slot b) ≠ some x :=
        h.imp fun hab x hx hy => hab x hx x hy rfl
      have symmetric : Std.Symm fun a b => ∀ x, slotSeq (d.slot a) = some x → slotSeq (d.slot b) ≠ some x :=
        ⟨fun _ _ hab x hx hy => hab x hy hx⟩
      exact hp.forall (mem_allServiceSlots j) (mem_allServiceSlots k) hne n hj hk
    · intro h
      have hne : allServiceSlots.Pairwise (· ≠ ·) := by decide
      refine hne.imp ?_
      rintro a b hab x hx y hy rfl
      exact hab (h a b x hx hy)
  unfold sequenceLaw
  rw [List.nodup_append, hnodup, List.mem_append, not_or, hmem]
  constructor
  · rintro ⟨⟨h₁, h₂, h₃⟩, ⟨h₄, h₅⟩, h₆⟩
    exact ⟨h₁, fun k n hk => ⟨fun e => h₄ ⟨k, e ▸ hk⟩, fun hr => h₃ n ((hmem n).2 ⟨k, hk⟩) n hr rfl⟩, h₂, h₅, h₆⟩
  · rintro ⟨h₁, h₂, h₃, h₄, h₅⟩
    refine ⟨⟨h₁, h₃, fun a ha b hb e => ?_⟩, ⟨fun ⟨k, hk⟩ => (h₂ k _ hk).1 rfl, h₄⟩, h₅⟩
    obtain ⟨k, hk⟩ := (hmem a).1 ha
    exact (h₂ k a hk).2 (e ▸ hb)

theorem sequenceLaw_congr {d d' : DeliveryUnit} (hs : d'.slots = d.slots) (hr : d'.revoked = d.revoked)
    (h : sequenceLaw d) : sequenceLaw d' := by
  have hheld : heldSeqs d' = heldSeqs d := by simp [heldSeqs, DeliveryUnit.slot, hs]
  simpa [sequenceLaw, hheld, hr] using h

/-- Numbers that leave the slots, or the list, leave the law as it was. -/
theorem sequenceLaw_fewer {d d' : DeliveryUnit} (hs : ∀ k n, slotSeq (d'.slot k) = some n → slotSeq (d.slot k) = some n)
    (hr : d'.revoked.Sublist d.revoked) (h : sequenceLaw d) : sequenceLaw d' := by
  rw [sequenceLaw_iff] at h ⊢
  obtain ⟨happart, hheld, hnodup, hzero, hlen⟩ := h
  exact ⟨fun j k n hj hk => happart j k n (hs j n hj) (hs k n hk),
    fun k n hk => ⟨(hheld k n (hs k n hk)).1, fun hn => (hheld k n (hs k n hk)).2 (hr.subset hn)⟩,
    hnodup.sublist hr, fun hn => hzero (hr.subset hn), hr.length_le.trans hlen⟩

theorem DeliveryUnit.setSlot_slot (d : DeliveryUnit) (k j : ServiceSlotId) (x : ServiceSlot) :
    (d.setSlot k x).slot j = if j = k then x else d.slot j := by
  split
  · next e => subst e; simp
  · next e => exact DeliveryUnit.setSlot_slot_ne d k j x e

/-- A slot that holds no number after its change. -/
theorem slotSeq_setSlot {d : DeliveryUnit} {k : ServiceSlotId} {x : ServiceSlot} (hx : slotSeq x = none)
    (j : ServiceSlotId) (n : Byte) (h : slotSeq ((d.setSlot k x).slot j) = some n) : j ≠ k ∧ slotSeq (d.slot j) = some n := by
  rw [DeliveryUnit.setSlot_slot] at h
  split at h
  · rw [hx] at h; cases h
  · next e => exact ⟨e, h⟩

/-- A number that is in no slot and not in the list is entered in the list, which drops its oldest when it is full. -/
theorem sequenceLaw_enter {d d' : DeliveryUnit} {n : Byte} (hs : ∀ k x, slotSeq (d'.slot k) = some x →
      slotSeq (d.slot k) = some x ∧ x ≠ n) (hr : d'.revoked = enterRevoked d.revoked n) (hn : n ≠ 0#8)
    (hnew : n ∉ d.revoked) (h : sequenceLaw d) : sequenceLaw d' := by
  rw [sequenceLaw_iff] at h ⊢
  obtain ⟨happart, hheld, hnodup, hzero, hlen⟩ := h
  have hkept : (if Config.revokedCapacity ≤ d.revoked.length then d.revoked.tail else d.revoked).Sublist d.revoked := by
    split
    · exact List.tail_sublist _
    · exact List.Sublist.refl _
  have hshort : (if Config.revokedCapacity ≤ d.revoked.length then d.revoked.tail else d.revoked).length ≤ 3 := by
    split
    · simp only [List.length_tail]; omega
    · next hroom => simp only [Config.revokedCapacity] at hroom; omega
  rw [hr, enterRevoked]
  refine ⟨fun j k x hj hk => happart j k x (hs j x hj).1 (hs k x hk).1, fun k x hk => ?_, ?_, ?_, ?_⟩
  · obtain ⟨hk', hne⟩ := hs k x hk
    refine ⟨(hheld k x hk').1, fun hx => ?_⟩
    rcases List.mem_append.1 hx with hx | hx
    · exact (hheld k x hk').2 (hkept.subset hx)
    · exact hne (List.mem_singleton.1 hx)
  · exact List.nodup_append.2 ⟨hnodup.sublist hkept, List.nodup_singleton n, fun a ha b hb e =>
      hnew (hkept.subset ((List.mem_singleton.1 hb) ▸ e ▸ ha))⟩
  · rw [List.mem_append, List.mem_singleton, not_or]
    exact ⟨fun h0 => hzero (hkept.subset h0), Ne.symm hn⟩
  · simp only [List.length_append, List.length_singleton]; omega

/-- The next number enters service in a slot. -/
theorem sequenceLaw_enterService {now : Time} {k : ServiceSlotId} {kind : Form} {e : Placement} {d : DeliveryUnit}
    (h : sequenceLaw d) : sequenceLaw (enterService now k kind e d) := by
  have hlen := h.2.2
  have hzero := assignedSeq_ne_zero d hlen
  obtain ⟨hnew, hlist⟩ := assignedSeq_unused d hlen
  have hslot : ∀ j n, slotSeq ((enterService now k kind e d).slot j) = some n →
      j = k ∧ n = assignedSeq d ∨ j ≠ k ∧ slotSeq (d.slot j) = some n := by
    intro j n hj
    have e' : (enterService now k kind e d).slot j = (d.setSlot k _).slot j := rfl
    rw [e', DeliveryUnit.setSlot_slot] at hj
    split at hj
    · next ej => exact .inl ⟨ej, (Option.some.inj hj).symm⟩
    · next ej => exact .inr ⟨ej, hj⟩
  have hother : ∀ j n, slotSeq (d.slot j) = some n → n ≠ assignedSeq d := fun j n hj en =>
    hnew (List.mem_filterMap.2 ⟨j, mem_allServiceSlots j, en ▸ hj⟩)
  rw [sequenceLaw_iff] at h ⊢
  obtain ⟨happart, hheld, hrest⟩ := h
  refine ⟨fun i j n hi hj => ?_, fun j n hj => ?_, hrest⟩
  · rcases hslot i n hi with ⟨rfl, hn⟩ | ⟨-, hi'⟩ <;> rcases hslot j n hj with ⟨rfl, hn'⟩ | ⟨-, hj'⟩
    · rfl
    · exact absurd hn (hother j n hj')
    · exact absurd hn' (hother i n hi')
    · exact happart i j n hi' hj'
  · rcases hslot j n hj with ⟨rfl, rfl⟩ | ⟨-, hj'⟩
    · exact ⟨hzero, hlist⟩
    · exact hheld j n hj'

theorem slot_unitAfterHandback (d : DeliveryUnit) (k : ServiceSlotId) :
    (unitAfterHandback d).slot k = slotAfterHandback (d.slot k) := by
  match k with
  | 0 | 1 | 2 | 3 => rfl

theorem slotSeq_slotAfterHandback (x : ServiceSlot) : slotSeq (slotAfterHandback x) = none := by cases x <;> rfl

theorem slot_powerUpUnit (k : ServiceSlotId) : powerUpUnit.slot k = .free := by
  match k with
  | 0 | 1 | 2 | 3 => rfl

theorem sequenceLaw_kept {x y : PortState × DeliveryUnit} (hm : UnitMove x y) (h : sequenceLaw x.2) : sequenceLaw y.2 := by
  have keepSlots : ∀ {d d' : DeliveryUnit}, d'.slots = d.slots → ∀ k n, slotSeq (d'.slot k) = some n →
      slotSeq (d.slot k) = some n := fun e k n hk => by simpa [DeliveryUnit.slot, e] using hk
  cases hm with
  | fresh =>
    exact (sequenceLaw_iff _).2 ⟨fun j k n hj => by simp [slot_powerUpUnit, slotSeq] at hj,
      fun k n hk => by simp [slot_powerUpUnit, slotSeq] at hk, by simp [powerUpUnit], by simp [powerUpUnit],
      by simp [powerUpUnit]⟩
  | began d => exact sequenceLaw_fewer (d := d) (keepSlots rfl) (List.nil_sublist _) h
  | handedBack =>
    exact sequenceLaw_fewer (fun k n hk => by rw [slot_unitAfterHandback, slotSeq_slotAfterHandback] at hk; cases hk)
      (List.nil_sublist _) h
  | movedOut => exact h
  | set | owedWithdrawn | noticed | marked | tookNotice => exact sequenceLaw_congr rfl rfl h
  | admittedNew | entryWithdrawn => exact sequenceLaw_congr (admitted_slots ..) (admitted_revoked ..) h
  | owedNew now p o d d₀ freed =>
    have hd₀ : d₀.slots = d.slots ∧ d₀.revoked = d.revoked := by
      rcases freed with rfl | rfl
      · exact ⟨rfl, rfl⟩
      · exact ⟨admitted_slots .., admitted_revoked ..⟩
    exact sequenceLaw_congr ((admitted_slots ..).trans hd₀.1) ((admitted_revoked ..).trans hd₀.2) h
  | revoked ps d k r held =>
    obtain ⟨happart, hheld, -⟩ := (sequenceLaw_iff d).1 h
    have hr : slotSeq (d.slot k) = some r.seq := by rw [held]; rfl
    refine sequenceLaw_enter (n := r.seq) (fun j x hj => ?_) rfl (hheld k _ hr).1 (hheld k _ hr).2 h
    obtain ⟨hne, hj'⟩ := slotSeq_setSlot (x := .free) rfl j x hj
    exact ⟨hj', fun e => hne (happart j k x hj' (e ▸ hr))⟩
  | claimClosed | completed =>
    exact sequenceLaw_fewer (fun j n hj => (slotSeq_setSlot (x := .free) rfl j n hj).2) (List.Sublist.refl _) h
  | claimGranted ps now d c =>
    exact sequenceLaw_enterService (d := { d with claims := d.claims.erase c }) (sequenceLaw_congr rfl rfl h)
  | claimRemoved ps d c =>
    obtain ⟨hnew, hlist⟩ := assignedSeq_unused { d with claims := d.claims.erase c } h.2.2
    refine sequenceLaw_enter (d := { d with claims := d.claims.erase c }) (fun j x hj => ?_) rfl
      (assignedSeq_ne_zero _ h.2.2) hlist (sequenceLaw_congr rfl rfl h)
    have hj' := (slotSeq_setSlot (x := .free) rfl j x hj).2
    exact ⟨hj', fun e => hnew (List.mem_filterMap.2 ⟨j, mem_allServiceSlots j, e ▸ hj'⟩)⟩
  | tookDelivery now p k kind e d =>
    exact sequenceLaw_congr (admitted_slots ..) (admitted_revoked ..)
      (sequenceLaw_enterService (d := { d with entries := d.entries.erase e }) (sequenceLaw_congr rfl rfl h))
  | tookOffer now p k e d =>
    refine sequenceLaw_congr (admitted_slots ..) (admitted_revoked ..) ?_
    exact sequenceLaw_fewer (fun j n hj => (slotSeq_setSlot (x := .reserved e.id) rfl j n hj).2)
      (List.Sublist.refl _) h
  | forgotten ps d seq => exact sequenceLaw_fewer (d := d) (keepSlots rfl) List.erase_sublist h

/-! ### The law of the ports that are not ATTACHED (R132) -/

/-- R132's law at one port. -/
def absentAt (x : PortState × DeliveryUnit) : Prop :=
  x.1 ≠ .attached → x.2.entries = [] ∧ x.2.owed = [] ∧ x.2.notices = [] ∧ x.2.revoked = [] ∧
    (∀ k r, x.2.slot k ≠ .held r) ∧ ∀ c ∈ x.2.claims, c.ended = true

theorem absentAt_admitted {ps : PortState} {now : Time} {p : Port} {d : DeliveryUnit} (h : absentAt (ps, d)) :
    absentAt (ps, admitted now p d) := by
  intro hps
  have hd : admitted now p d = d := by rw [admitted, admissions_nothing (h hps).2.1]
  rw [hd]
  exact h hps

theorem absentAt_kept {x y : PortState × DeliveryUnit} (hm : UnitMove x y) (h : absentAt x) : absentAt y := by
  have noneHeld : ∀ {d : DeliveryUnit} (k : ServiceSlotId), (∀ j r, d.slot j ≠ .held r) →
      ∀ j r, (d.setSlot k .free).slot j ≠ .held r := by
    intro d k hd j r
    rw [DeliveryUnit.setSlot_slot]
    split
    · nofun
    · exact hd j r
  cases hm with
  | fresh => exact fun _ => ⟨rfl, rfl, rfl, rfl, fun k r => by rw [slot_powerUpUnit]; nofun, nofun⟩
  | began | admittedNew | owedNew | noticed | tookDelivery | tookOffer => exact fun hps => absurd rfl hps
  | handedBack d =>
    refine fun _ => ⟨rfl, rfl, rfl, rfl, fun k r => ?_, fun c hc => ?_⟩
    · rw [slot_unitAfterHandback]
      cases d.slot k <;> nofun
    · obtain ⟨c', -, rfl⟩ := List.mem_map.1 hc
      rfl
  | movedOut ps d next was => exact fun _ => h was
  | set => exact h
  | entryWithdrawn ps now p id d =>
    refine absentAt_admitted fun hps => ?_
    obtain ⟨he, hrest⟩ := h hps
    exact ⟨by simp [show d.entries = [] from he], hrest⟩
  | owedWithdrawn ps id d =>
    intro hps
    obtain ⟨he, ho, hrest⟩ := h hps
    exact ⟨he, by simp [show d.owed = [] from ho], hrest⟩
  | revoked ps d k r held =>
    intro hps
    obtain ⟨-, -, -, -, hheld, -⟩ := h hps
    exact absurd held (hheld k r)
  | marked ps d i ref =>
    intro hps
    obtain ⟨he, ho, hn, hr, hheld, hclaims⟩ := h hps
    refine ⟨he, ho, hn, hr, hheld, fun c hc => ?_⟩
    obtain ⟨c', hc', rfl⟩ := List.mem_map.1 hc
    have := hclaims c' hc'
    split <;> exact this
  | claimClosed ps d c =>
    intro hps
    obtain ⟨he, ho, hn, hr, hheld, hclaims⟩ := h hps
    exact ⟨he, ho, hn, hr, noneHeld (d := { d with claims := d.claims.erase c }) c.slot hheld,
      fun c' hc' => hclaims c' (List.mem_of_mem_erase hc')⟩
  | claimGranted ps now d c inFlight session | claimRemoved ps d c inFlight session =>
    intro hps
    obtain ⟨-, -, -, -, -, hclaims⟩ := h hps
    exact absurd (hclaims c inFlight) (by simp [session])
  | tookNotice ps d n =>
    intro hps
    obtain ⟨he, ho, hn, hrest⟩ := h hps
    exact ⟨he, ho, by simp [show d.notices = [] from hn], hrest⟩
  | completed ps d k =>
    intro hps
    obtain ⟨he, ho, hn, hr, hheld, hclaims⟩ := h hps
    exact ⟨he, ho, hn, hr, noneHeld k hheld, hclaims⟩
  | forgotten ps d seq =>
    intro hps
    obtain ⟨he, ho, hn, hr, hrest⟩ := h hps
    exact ⟨he, ho, hn, by simp [show d.revoked = [] from hr], hrest⟩

/-! ### The law of the OPEN slots (R82) -/

theorem offersLaw_of_offers {s t : State} (h : t.offers = s.offers) (hs : offersLaw s) : offersLaw t := by
  intro k o ho
  exact hs k o (by simpa [State.offer, h] using ho)

/-- A slot that is not OPEN, or whose entry holders and owed set part the candidates, may be written. -/
theorem offersLaw_set {s : State} {k : SlotId} {x : OfferSlot} (hs : offersLaw s)
    (hx : ∀ o, x = .opened o → o.holders &&& o.owed = 0#4 ∧ o.holders ||| o.owed = o.candidates) :
    offersLaw (s.setOffer k x) := by
  intro j o ho
  rw [State.setOffer_offer] at ho
  split at ho
  · exact hx o ho
  · exact hs j o ho

theorem offersLaw_arbitrate (n : Nat) {s : State} (hs : offersLaw s) : offersLaw (arbitrate n s) := by
  induction n generalizing s with
  | zero => exact hs
  | succ n ih =>
    simp only [arbitrate]
    split
    · next k r _ _ =>
      exact ih (offersLaw_set (s := { s with requests := s.requests.erase r }) hs nofun)
    · exact hs

theorem offersLaw_freeSlot (k : SlotId) {s : State} (hs : offersLaw s) : offersLaw (freeSlot k s) :=
  offersLaw_arbitrate _ (offersLaw_set hs nofun)

theorem offersLaw_expireOffer (k : SlotId) (o : Offer) (cause : ExpiryCause) {s : State} (hs : offersLaw s) :
    offersLaw (expireOffer k o cause s) :=
  offersLaw_freeSlot k (s := s.send _) hs

/-- A port moves from the owed set to the entry holders, or leaves every set. -/
theorem portSets_part : ∀ (holders owed candidates : PortSet) (p : Port), holders &&& owed = 0#4 →
    holders ||| owed = candidates →
    (portIn p owed = true → withPort holders p &&& withoutPort owed p = 0#4 ∧
      withPort holders p ||| withoutPort owed p = candidates) ∧
    (withoutPort holders p &&& withoutPort owed p = 0#4 ∧
      withoutPort holders p ||| withoutPort owed p = withoutPort candidates p) := by
  rintro holders owed candidates p h rfl
  revert holders owed p
  decide

/-- The Offer Arbiter keeps the law of its OPEN slots. -/
theorem eventAct_offersLaw {c : Instr} {act : State → State} (h : eventAct c = some act) (hc : arbiterRow c = true)
    {s : State} (hs : offersLaw s) : offersLaw (act s) := by
  cases c <;> try (cases hc; done)
  case slotRequest =>
    cases h
    unfold takeRequest
    split
    · exact offersLaw_set hs nofun
    · exact hs
  case slotRequestCancel => cases h; exact hs
  case grantOpen k i ref priority candidates excluded fields =>
    cases h
    simp only [openOffer]
    split
    · exact offersLaw_set hs fun o ho => by cases ho; simp [newOffer]
    · exact hs
  case grantDecline =>
    cases h
    unfold takeDecline
    split
    · exact offersLaw_freeSlot _ hs
    · exact hs
  case offerAdmissionReport i p round =>
    cases h
    unfold takeOfferAdmission
    split
    · next k o hfound =>
      obtain ⟨hopen, htest⟩ := findOffer_spec hfound
      obtain ⟨happart, hunion⟩ := hs k o hopen
      have howed : portIn p o.owed = true := by simp_all
      exact offersLaw_set hs fun o' ho' => by
        cases ho'; exact (portSets_part _ _ _ p happart hunion).1 howed
    · exact hs
  case claim =>
    cases h
    unfold takeClaim
    split
    · exact offersLaw_freeSlot _ (s := s.send _) hs
    · exact hs
  case candidateLoss i ref round p =>
    cases h
    unfold takeCandidateLoss
    split
    · next k o hfound =>
      obtain ⟨happart, hunion⟩ := hs k o (findOffer_spec hfound).1
      have hset : offersLaw (s.setOffer k (.opened { o with
          candidates := withoutPort o.candidates p, holders := withoutPort o.holders p,
          owed := withoutPort o.owed p })) :=
        offersLaw_set hs fun o' ho' => by cases ho'; exact (portSets_part _ _ _ p happart hunion).2
      simp only []
      split
      · exact offersLaw_expireOffer _ _ _ (s := State.send _ _) hset
      · exact hset
    · exact hs
  case closeRequest =>
    cases h
    unfold takeClose
    split
    · exact offersLaw_freeSlot _ (s := s.send _) hs
    · exact hs
  case offerExpiry k =>
    cases h
    unfold takeOfferExpiry
    split
    · split
      · exact offersLaw_expireOffer _ _ _ hs
      · exact hs
    · exact hs

theorem freshPart_offersLaw (s : State) (ssel : BitVec 3) (lin : BitVec 32) (sources : Vector Source 48)
    (lines : Vector Line 32) (inReset csIgnored : Port → Bool) (crst powerHold : Bool) (cause : ResetCause) :
    offersLaw (freshPart s ssel lin sources lines inReset csIgnored crst powerHold cause) := by
  intro k o ho
  simp [State.offer, freshPart] at ho

theorem exec_offersLaw {c : Instr} {s t : State} (h : exec c s = .next t) (hs : offersLaw s) : offersLaw t := by
  have keep : ∀ {l : List Part} {u v : State}, sameBut l u v → Part.offers ∉ l → offersLaw u → offersLaw v :=
    fun huv hl hu => offersLaw_of_offers (huv .offers hl) hu
  rcases exec_cases h with hc | ⟨act, u, ha, hsu, hut⟩ | ⟨p, a, body, u, -, -, hb, hsu, -, hut⟩ |
    ⟨p, -, rfl⟩ | ⟨ssel, lin, crst, prst, rfl⟩ | ⟨ssel, rfl, hcrst⟩
  · exact offersLaw_of_offers hc.offers hs
  · have hu := offersLaw_of_offers hsu.offers hs
    refine offersLaw_of_offers hut.offers ?_
    rcases eventAct_cases ha with hact | ⟨-, hact⟩ | ⟨hrow, -⟩ | ⟨p, -, hact⟩
    · exact keep (hact u) (by simp) hu
    · exact keep (hact u) (by simp) hu
    · exact eventAct_offersLaw ha hrow hu
    · obtain ⟨v, huv, hv⟩ := hact u
      exact offersLaw_of_offers (calm_of_link hv).offers (keep huv.1 (by simp) hu)
  · have hu := offersLaw_of_offers hsu.offers hs
    refine offersLaw_of_offers hut.offers ?_
    rcases commandBody_kinds hb with hk | hk | hk | hk
    · rw [commandBody_read hb hk]; exact hu
    · exact keep (commandBody_control hb hk u) (by simp) hu
    · exact keep (commandBody_edit hb hk u).frame (by simp) hu
    · exact keep (commandBody_session hb hk u) (by simp) hu
  · exact offersLaw_of_offers (calm_judgeAttn _).offers (keep (resetPort_frame p s) (by simp) hs)
  · rw [exec_powerUp] at h
    rw [← Host.Outcome.next.inj h, powerUpPart]
    apply freshPart_offersLaw
  · rw [exec_crstRelease ssel hcrst] at h
    rw [← Host.Outcome.next.inj h, chipResetPart]
    exact offersLaw_of_offers (State.send_offers _ _) (freshPart_offersLaw _ _ _ _ _ _ _ _ _ _)

/-- Settles O58: the first three laws speak of one unit and its port's state and are kept by every move; the fourth is kept by
every operation of the Offer Arbiter, and no other block writes the Offer List. -/
theorem unitLawsKept : Obligations.UnitLawsKept := by
  unfold Obligations.UnitLawsKept
  refine ⟨fun s t hs h => ?_, fun s t hs h => ?_, fun s t hs h => ?_, fun s t hs h => ?_⟩
  · exact step_keeps_unit (L := fun x => queueLaw x.2) queueLaw_kept h hs
  · exact step_keeps_unit (L := fun x => sequenceLaw x.2) sequenceLaw_kept h hs
  · exact step_keeps_unit (L := absentAt) absentAt_kept h hs
  · exact step_keeps (P := offersLaw) (fun hc => offersLaw_of_offers hc.offers) exec_offersLaw h hs

end Sys2Proof.Machine
end

section
/-! PROOFS. The laws of the source records and of the Payload Pool (R7, R43), and the owners of locked sources (R139). -/

namespace Sys2Proof.Machine

/-! ### The law of one record, state by state -/

/-- What is asked of a record in every state (R2, R4, R43): the fields of its kind, its pending occurrences, its list. -/
structure countsLaw (i : SourceId) (r : Source) : Prop where
  kind : kindLaw i r
  room : r.words.length ≤ depthLimit r
  count : r.pending ≤ 255
  stamp : r.firstStamp.isSome = true ↔ r.pending ≠ 0
  mark : r.pending = 0 → r.overrun = false
  byKind : (∃ g k, r.routing.kind = .line g k) ∧ r.words = [] ∨ (∃ d q, r.routing.kind = .soft d q) ∧ r.pending = 0

/-- The laws of one record together. -/
def recordLaw (i : SourceId) (r : Source) : Prop :=
  kindLaw i r ∧ kindFieldsLaw r ∧ sourceLaw r ∧ r.words.length ≤ depthLimit r

/-- A soft source's list is not empty. -/
def hasWord (r : Source) : Prop := ∀ d q, r.routing.kind = .soft d q → r.words ≠ []

theorem recordLaw_iff {i : SourceId} {r : Source} : recordLaw i r ↔
    countsLaw i r ∧ (r.batch.isSome = true → hasWord r) ∧ sourceLaw r := by
  constructor
  · rintro ⟨hkind, hfields, hsource, hroom⟩
    obtain ⟨hcount, hstamp, hmark, -⟩ := id hsource
    unfold kindFieldsLaw at hfields
    cases hk : r.routing.kind with
    | line g k =>
      rw [hk] at hfields
      exact ⟨⟨hkind, hroom, hcount, hstamp, hmark, .inl ⟨⟨g, k, hk⟩, hfields⟩⟩,
        fun _ d q hd => (by rw [hk] at hd; cases hd), hsource⟩
    | soft d q =>
      rw [hk] at hfields
      exact ⟨⟨hkind, hroom, hcount, hstamp, hmark, .inr ⟨⟨d, q, hk⟩, hfields.1⟩⟩, fun hb _ _ _ => hfields.2 hb, hsource⟩
  · rintro ⟨⟨hkind, hroom, -, -, -, hby⟩, hword, hsource⟩
    refine ⟨hkind, ?_, hsource, hroom⟩
    unfold kindFieldsLaw
    rcases hby with ⟨⟨g, k, hk⟩, hw⟩ | ⟨⟨d, q, hk⟩, hp⟩
    · rw [hk]; exact hw
    · rw [hk]; exact ⟨hp, fun hb => hword hb d q hk⟩

/-- The counts read the kind, the list and the pending occurrences alone. -/
theorem countsLaw_congr {i : SourceId} {r r' : Source} (h : countsLaw i r) (hk : r'.routing.kind = r.routing.kind)
    (hw : r'.words = r.words) (hp : r'.pending = r.pending) (ho : r'.overrun = r.overrun)
    (hf : r'.firstStamp = r.firstStamp) : countsLaw i r' := by
  obtain ⟨hkind, hroom, hcount, hstamp, hmark, hby⟩ := h
  exact ⟨by simpa [kindLaw, hk] using hkind, by simpa [depthLimit, hk, hw] using hroom, by rwa [hp], by rwa [hf, hp],
    by rwa [hp, ho], by rwa [hk, hw, hp]⟩

/-- A record whose pending occurrences have gone. -/
theorem countsLaw_cleared {i : SourceId} {r r' : Source} (h : countsLaw i r) (hk : r'.routing.kind = r.routing.kind)
    (hw : r'.words.Sublist r.words) (hp : r'.pending = 0) (ho : r'.overrun = false) (hf : r'.firstStamp = none) :
    countsLaw i r' := by
  obtain ⟨hkind, hroom, -, -, -, hby⟩ := h
  refine ⟨by simpa [kindLaw, hk] using hkind, ?_, by omega, by simp [hf, hp], fun _ => ho, ?_⟩
  · have hlen := hw.length_le
    simp only [depthLimit, hk] at hroom ⊢
    omega
  · rw [hk]
    exact hby.imp (fun ⟨hl, hnil⟩ => ⟨hl, List.sublist_nil.1 (hnil ▸ hw)⟩) fun ⟨hs, _⟩ => ⟨hs, hp⟩

/-- A record with fewer words. -/
theorem countsLaw_fewerWords {i : SourceId} {r r' : Source} (h : countsLaw i r) (hk : r'.routing.kind = r.routing.kind)
    (hw : r'.words.Sublist r.words) (hp : r'.pending = r.pending) (ho : r'.overrun = r.overrun)
    (hf : r'.firstStamp = r.firstStamp) : countsLaw i r' := by
  obtain ⟨hkind, hroom, hcount, hstamp, hmark, hby⟩ := h
  refine ⟨by simpa [kindLaw, hk] using hkind, ?_, by rwa [hp], by rwa [hf, hp], by rwa [hp, ho], ?_⟩
  · have hlen := hw.length_le
    simp only [depthLimit, hk] at hroom ⊢
    omega
  · rw [hk, hp]
    exact hby.imp_left fun ⟨hl, hnil⟩ => ⟨hl, List.sublist_nil.1 (hnil ▸ hw)⟩

theorem sourceLaw_split {r : Source} : sourceLaw r ↔
    (r.pending ≤ 255 ∧ (r.firstStamp.isSome = true ↔ r.pending ≠ 0) ∧ (r.pending = 0 → r.overrun = false)) ∧
    (r.state = .off → r.enable = false ∧ r.pending = 0 ∧ r.words = [] ∧ r.batch = none ∧ r.slotRequest = none) ∧
    (r.state = .idle → r.enable = true ∧ r.pending = 0 ∧ r.words = [] ∧ r.batch = none ∧ r.slotRequest = none) ∧
    (r.state = .waiting → r.enable = true ∧ r.batch = none ∧ pendingCount r ≠ 0) ∧
    (r.state = .active → r.enable = true ∧ ∃ b, r.batch = some b ∧ 1 ≤ b.count ∧ b.count ≤ 255) ∧
    (r.state = .draining → r.enable = false ∧ r.pending = 0 ∧ r.words.length ≤ 1 ∧ r.slotRequest = none ∧
      ∃ b, r.batch = some b ∧ hasInService b ∧ ¬ hasUntaken b ∧ b.offer = none) := by
  unfold sourceLaw
  cases r.state <;> simp [and_assoc]

theorem recordLaw_off {i : SourceId} {r : Source} (hs : r.state = .off) : recordLaw i r ↔
    countsLaw i r ∧ r.enable = false ∧ r.pending = 0 ∧ r.words = [] ∧ r.batch = none ∧ r.slotRequest = none := by
  rw [recordLaw_iff, sourceLaw_split]
  simp only [hs, reduceCtorEq, false_implies, true_implies, and_true]
  constructor
  · rintro ⟨hc, -, -, h⟩; exact ⟨hc, h⟩
  · rintro ⟨hc, h⟩; exact ⟨hc, by simp [h], ⟨hc.count, hc.stamp, hc.mark⟩, h⟩

theorem recordLaw_idle {i : SourceId} {r : Source} (hs : r.state = .idle) : recordLaw i r ↔
    countsLaw i r ∧ r.enable = true ∧ r.pending = 0 ∧ r.words = [] ∧ r.batch = none ∧ r.slotRequest = none := by
  rw [recordLaw_iff, sourceLaw_split]
  simp only [hs, reduceCtorEq, false_implies, true_implies, true_and, and_true]
  constructor
  · rintro ⟨hc, -, -, h⟩; exact ⟨hc, h⟩
  · rintro ⟨hc, h⟩; exact ⟨hc, by simp [h], ⟨hc.count, hc.stamp, hc.mark⟩, h⟩

theorem recordLaw_waiting {i : SourceId} {r : Source} (hs : r.state = .waiting) : recordLaw i r ↔
    countsLaw i r ∧ r.enable = true ∧ r.batch = none ∧ pendingCount r ≠ 0 := by
  rw [recordLaw_iff, sourceLaw_split]
  simp only [hs, reduceCtorEq, false_implies, true_implies, true_and, and_true]
  constructor
  · rintro ⟨hc, -, -, h⟩; exact ⟨hc, h⟩
  · rintro ⟨hc, h⟩; exact ⟨hc, by simp [h], ⟨hc.count, hc.stamp, hc.mark⟩, h⟩

theorem recordLaw_active {i : SourceId} {r : Source} (hs : r.state = .active) : recordLaw i r ↔
    countsLaw i r ∧ hasWord r ∧ r.enable = true ∧ ∃ b, r.batch = some b ∧ 1 ≤ b.count ∧ b.count ≤ 255 := by
  rw [recordLaw_iff, sourceLaw_split]
  simp only [hs, reduceCtorEq, false_implies, true_implies, true_and, and_true]
  constructor
  · rintro ⟨hc, hw, -, he, b, hb, h⟩; exact ⟨hc, hw (by simp [hb]), he, b, hb, h⟩
  · rintro ⟨hc, hw, h⟩; exact ⟨hc, fun _ => hw, ⟨hc.count, hc.stamp, hc.mark⟩, h⟩

theorem recordLaw_draining {i : SourceId} {r : Source} (hs : r.state = .draining) : recordLaw i r ↔
    countsLaw i r ∧ hasWord r ∧ r.enable = false ∧ r.pending = 0 ∧ r.words.length ≤ 1 ∧ r.slotRequest = none ∧
      ∃ b, r.batch = some b ∧ hasInService b ∧ ¬ hasUntaken b ∧ b.offer = none := by
  rw [recordLaw_iff, sourceLaw_split]
  simp only [hs, reduceCtorEq, false_implies, true_implies, true_and]
  constructor
  · rintro ⟨hc, hw, -, he, hp, hl, hr, b, hb, h⟩; exact ⟨hc, hw (by simp [hb]), he, hp, hl, hr, b, hb, h⟩
  · rintro ⟨hc, hw, h⟩; exact ⟨hc, fun _ => hw, ⟨hc.count, hc.stamp, hc.mark⟩, h⟩

/-- A record that has a batch is ACTIVE or DRAINING. -/
theorem recordLaw_batch {i : SourceId} {r : Source} {b : Batch} (h : recordLaw i r) (hb : r.batch = some b) :
    r.state = .active ∨ r.state = .draining := by
  cases hs : r.state with
  | off => have := ((recordLaw_off hs).1 h).2.2.2.2.1; rw [hb] at this; cases this
  | idle => have := ((recordLaw_idle hs).1 h).2.2.2.2.1; rw [hb] at this; cases this
  | waiting => have := ((recordLaw_waiting hs).1 h).2.2.1; rw [hb] at this; cases this
  | active => exact .inl rfl
  | draining => exact .inr rfl

theorem recordLaw.counts {i : SourceId} {r : Source} (h : recordLaw i r) : countsLaw i r := (recordLaw_iff.1 h).1

/-- The pending count, by the kind (R4). -/
theorem pendingCount_zero {r : Source} {i : SourceId} (hc : countsLaw i r) (hb : r.batch = none) :
    pendingCount r = 0 ↔ r.pending = 0 ∧ r.words = [] := by
  rcases hc.byKind with ⟨⟨g, k, hk⟩, hw⟩ | ⟨⟨d, q, hk⟩, hp⟩
  · simp [pendingCount, hk, hw]
  · simp [pendingCount, hk, hp, pendingWords, hb]

/-! ### What an operation on one source leaves -/

/-- After an operation on source `i` its record keeps its laws, and its words and the free cells make the same sum. -/
def lawful (i : SourceId) (s t : State) : Prop :=
  recordLaw i (t.src i) ∧ t.poolFree + (t.src i).words.length = s.poolFree + (s.src i).words.length

theorem lawful_refl {i : SourceId} {s : State} (h : recordLaw i (s.src i)) : lawful i s s := ⟨h, rfl⟩

theorem lawful_trans {i : SourceId} {s t u : State} (h : t.poolFree + (t.src i).words.length =
    s.poolFree + (s.src i).words.length) (h' : lawful i t u) : lawful i s u := ⟨h'.1, h'.2.trans h⟩

theorem lawful_send {i : SourceId} {s t : State} (ms : List Instr) (h : lawful i s t) : lawful i s (t.send ms) := h

/-- A record replaced by one that keeps its laws and its list. -/
theorem lawful_set {i : SourceId} {s : State} {r : Source} (h : recordLaw i r) (hw : r.words = (s.src i).words) :
    lawful i s (s.setSrc i r) := by
  refine ⟨by rwa [State.setSrc_src_same], ?_⟩
  simp [hw]

theorem lawful_tellLine {i : SourceId} {s t : State} (m : LineId → Instr) (h : lawful i s t) :
    lawful i s (tellLine i m t) := by
  unfold tellLine
  split
  · exact lawful_send _ h
  · exact h

/-! ### Formation -/

theorem newBatch_count {i : SourceId} {r : Source} (form : Form) (h : recordLaw i r) (hw : r.state = .waiting) :
    1 ≤ (newBatch r form).count ∧ (newBatch r form).count ≤ 255 := by
  obtain ⟨hc, -, hb, hpending⟩ := (recordLaw_waiting hw).1 h
  have hcount := hc.count
  rw [newBatch_eq]
  cases hk : r.routing.kind with
  | line g k =>
    rw [pendingCount, hk] at hpending
    simp only [pendingFields, hk]
    exact ⟨Nat.one_le_iff_ne_zero.2 hpending, hcount⟩
  | soft d q =>
    cases hwords : r.words <;> simp [pendingFields, hk, hwords]

/-- The record of a source whose batch has formed. -/
theorem recordLaw_formed {i : SourceId} {r : Source} {b : Batch} (h : recordLaw i r) (hw : r.state = .waiting)
    (hb : 1 ≤ b.count ∧ b.count ≤ 255) : recordLaw i (formed r b) := by
  obtain ⟨hc, he, hnone, hpending⟩ := (recordLaw_waiting hw).1 h
  refine (recordLaw_active rfl).2 ⟨countsLaw_cleared hc rfl (List.Sublist.refl _) rfl rfl rfl, fun d q hk => ?_, he,
    b, rfl, hb⟩
  have hk' : r.routing.kind = .soft d q := hk
  intro hnil
  have hnil' : r.words = [] := hnil
  exact hpending (by simp [pendingCount, hk', pendingWords, hnone, hnil'])

theorem placeBatch_lawful {i : SourceId} {s : State} (form : Form) (kind : EntryKind) (ports : PortSet)
    (h : recordLaw i (s.src i)) (hw : (s.src i).state = .waiting) : lawful i s (placeBatch i form kind ports s) := by
  refine lawful_send _ (lawful_set (recordLaw_formed h hw ?_) rfl)
  exact newBatch_count form h hw

theorem attemptFallback_lawful {i : SourceId} {s : State} (h : recordLaw i (s.src i))
    (hw : (s.src i).state = .waiting) : lawful i s (attemptFallback i s) := by
  unfold attemptFallback
  split
  · exact placeBatch_lawful _ _ _ h hw
  · exact lawful_refl h

/-- A slot request may stand in WAITING and in ACTIVE. -/
theorem recordLaw_request {i : SourceId} {r : Source} (n m : Option Nat) (h : recordLaw i r)
    (hs : r.state = .waiting ∨ r.state = .active) :
    recordLaw i { r with slotRequest := n, nextRequest := m.getD r.nextRequest } := by
  rcases hs with hs | hs
  · obtain ⟨hc, hrest⟩ := (recordLaw_waiting hs).1 h
    exact (recordLaw_waiting (r := { r with slotRequest := n, nextRequest := m.getD r.nextRequest }) hs).2
      ⟨countsLaw_congr hc rfl rfl rfl rfl rfl, hrest⟩
  · obtain ⟨hc, hrest⟩ := (recordLaw_active hs).1 h
    exact (recordLaw_active (r := { r with slotRequest := n, nextRequest := m.getD r.nextRequest }) hs).2
      ⟨countsLaw_congr hc rfl rfl rfl rfl rfl, hrest⟩

theorem requestSlot_lawful {i : SourceId} {s : State} (kind : RequestKind) (stamp : Time) (h : recordLaw i (s.src i))
    (hs : (s.src i).state = .waiting ∨ (s.src i).state = .active) : lawful i s (requestSlot i kind stamp s) :=
  lawful_send _ (lawful_set (recordLaw_request _ (some _) h hs) rfl)

/-- No request stands any more: allowed in every state. -/
theorem recordLaw_noRequest {i : SourceId} {r : Source} (h : recordLaw i r) :
    recordLaw i { r with slotRequest := none } := by
  obtain ⟨hc, hw, hs⟩ := recordLaw_iff.1 h
  refine recordLaw_iff.2 ⟨countsLaw_congr hc rfl rfl rfl rfl rfl, hw, ?_⟩
  rw [sourceLaw_split] at hs ⊢
  obtain ⟨hcounts, hoff, hidle, hwaiting, hactive, hdraining⟩ := hs
  refine ⟨hcounts, fun e => ?_, fun e => ?_, hwaiting, hactive, fun e => ?_⟩
  · obtain ⟨h₁, h₂, h₃, h₄, -⟩ := hoff e; exact ⟨h₁, h₂, h₃, h₄, rfl⟩
  · obtain ⟨h₁, h₂, h₃, h₄, -⟩ := hidle e; exact ⟨h₁, h₂, h₃, h₄, rfl⟩
  · obtain ⟨h₁, h₂, h₃, -, h₄⟩ := hdraining e; exact ⟨h₁, h₂, h₃, rfl, h₄⟩

theorem attempt_lawful {i : SourceId} {s : State} (h : recordLaw i (s.src i)) : lawful i s (attempt i s) := by
  simp only [attempt]
  split
  · next hready =>
    obtain ⟨hw, -⟩ := hready
    split
    · simp only [attemptDirect]
      split
      · split
        · exact placeBatch_lawful _ _ _ h hw
        · exact attemptFallback_lawful h hw
      · exact attemptFallback_lawful h hw
    · simp only [attemptBroadcast]
      split
      · exact lawful_refl h
      · exact placeBatch_lawful _ _ _ h hw
    · simp only [attemptShared]
      split
      · exact attemptFallback_lawful h hw
      · exact requestSlot_lawful _ _ h (.inl hw)
  · exact lawful_refl h

theorem waitAndAttempt_lawful {i : SourceId} {s : State} (h : recordLaw i { s.src i with state := .waiting }) :
    lawful i s (waitAndAttempt i s) := by
  have hset := lawful_set (s := s) h rfl
  exact lawful_trans hset.2 (attempt_lawful hset.1)

/-! ### Occurrences -/

/-- One more occurrence of a line source (R8). -/
theorem countsLaw_counted {i : SourceId} {r : Source} (now : Time) (h : countsLaw i r)
    (hline : ∃ g k, r.routing.kind = .line g k) : countsLaw i (counted now r) ∧ (counted now r).pending ≠ 0 := by
  obtain ⟨hkind, hroom, hcount, hstamp, hmark, hby⟩ := h
  have hwords : r.words = [] := by
    rcases hby with ⟨-, hw⟩ | ⟨⟨d, q, hk⟩, -⟩
    · exact hw
    · obtain ⟨g, k, hk'⟩ := hline; rw [hk] at hk'; cases hk'
  unfold counted
  split
  · refine ⟨⟨hkind, hroom, ?_, ?_, by simp, .inl ⟨hline, hwords⟩⟩, by simp⟩
    · simp only; omega
    · by_cases h0 : r.pending = 0
      · simp [h0]
      · simpa [h0] using hstamp
  · next hfull => exact ⟨⟨hkind, hroom, hcount, hstamp, fun h0 => by simp only at h0; omega, .inl ⟨hline, hwords⟩⟩,
      by simp only; omega⟩

theorem counted_rest (now : Time) (r : Source) : (counted now r).routing = r.routing ∧ (counted now r).words = r.words ∧
    (counted now r).enable = r.enable ∧ (counted now r).batch = r.batch ∧ (counted now r).state = r.state := by
  unfold counted
  split <;> simp

theorem occurrence_lawful {l : LineId} {s : State} (h : recordLaw (sourceOfLine l) (s.src (sourceOfLine l))) :
    lawful (sourceOfLine l) s (occurrence (sourceOfLine l) s) := by
  have hline : ∃ g k, (s.src (sourceOfLine l)).routing.kind = .line g k := by
    have hkind := h.1
    unfold kindLaw at hkind
    cases hk : (s.src (sourceOfLine l)).routing.kind with
    | line g k => exact ⟨g, k, rfl⟩
    | soft d q =>
      rw [hk] at hkind
      have := l.isLt
      simp only [sourceOfLine] at hkind
      omega
  obtain ⟨hcounts, hne⟩ := countsLaw_counted s.time h.counts hline
  obtain ⟨hrouting, hwords, henable, hbatch, hstate⟩ := counted_rest s.time (s.src (sourceOfLine l))
  have waits : (s.src (sourceOfLine l)).enable = true → (s.src (sourceOfLine l)).batch = none →
      lawful (sourceOfLine l) s (waitAndAttempt (sourceOfLine l)
        (s.setSrc (sourceOfLine l) (counted s.time (s.src (sourceOfLine l))))) := by
    intro he hb
    refine lawful_trans (by simp [hwords]) (waitAndAttempt_lawful ?_)
    rw [State.setSrc_src_same]
    refine (recordLaw_waiting rfl).2 ⟨countsLaw_congr hcounts rfl rfl rfl rfl rfl, henable.trans he, hbatch.trans hb, ?_⟩
    obtain ⟨g, k, hk⟩ := hline
    simpa [pendingCount, hrouting, hk] using hne
  simp only [occurrence]
  split
  · exact lawful_refl h
  · exact lawful_refl h
  · next hs =>
    obtain ⟨-, he, -, -, hb, -⟩ := (recordLaw_idle hs).1 h
    exact waits he hb
  · next hs =>
    obtain ⟨-, he, hb, -⟩ := (recordLaw_waiting hs).1 h
    exact waits he hb
  · next hs =>
    obtain ⟨-, -, he, b, hb, hcount⟩ := (recordLaw_active hs).1 h
    refine lawful_set ((recordLaw_active (hstate.trans hs)).2 ⟨hcounts, fun d q hk => ?_, henable.trans he, b,
      hbatch.trans hb, hcount⟩) hwords
    obtain ⟨g, k, hk'⟩ := hline
    rw [hrouting, hk'] at hk
    cases hk

/-! ### A batch changed, and its ends -/

/-- A batch replaced by one of the same count. -/
theorem recordLaw_batchChanged {i : SourceId} {r : Source} {b b' : Batch} (h : recordLaw i r) (hb : r.batch = some b)
    (hcount : b'.count = b.count)
    (hdraining : r.state = .draining → hasInService b' ∧ ¬ hasUntaken b' ∧ b'.offer = none) :
    recordLaw i { r with batch := some b' } := by
  rcases recordLaw_batch h hb with hs | hs
  · obtain ⟨hc, hw, he, b₀, hb₀, hn⟩ := (recordLaw_active hs).1 h
    rw [hb] at hb₀
    cases hb₀
    exact (recordLaw_active (r := { r with batch := some b' }) hs).2
      ⟨countsLaw_congr hc rfl rfl rfl rfl rfl, hw, he, b', rfl, by rwa [hcount]⟩
  · obtain ⟨hc, hw, he, hp, hl, hr, -⟩ := (recordLaw_draining hs).1 h
    exact (recordLaw_draining (r := { r with batch := some b' }) hs).2
      ⟨countsLaw_congr hc rfl rfl rfl rfl rfl, hw, he, hp, hl, hr, b', rfl, hdraining hs⟩

/-- The end of a batch frees the cell of its word. -/
theorem endBatch_record (i : SourceId) (o : LastOutcome) (s : State) :
    (endBatch i o s).src i =
      { s.src i with words := (s.src i).words.tail, batch := none, lastOutcome := o } ∧
    (endBatch i o s).poolFree + ((endBatch i o s).src i).words.length = s.poolFree + (s.src i).words.length := by
  have hrec : (endBatch i o s).src i =
      { s.src i with words := (s.src i).words.tail, batch := none, lastOutcome := o } := by simp [endBatch]
  refine ⟨hrec, ?_⟩
  rw [hrec]
  have hpool : (endBatch i o s).poolFree = s.poolFree + (s.src i).words.length - (s.src i).words.tail.length := rfl
  have htail : (s.src i).words.tail.length ≤ (s.src i).words.length := by simp
  rw [hpool]
  simp only
  omega

/-- With its batch gone an enabled source with no request is IDLE, or WAITING with an attempt (R22, R24). -/
theorem afterBatch_lawful {i : SourceId} {s : State} (hc : countsLaw i (s.src i)) (he : (s.src i).enable = true)
    (hb : (s.src i).batch = none) (hr : (s.src i).slotRequest = none) : lawful i s (afterBatch i s) := by
  by_cases h0 : pendingCount (s.src i) = 0
  · rw [afterBatch_nothing h0]
    obtain ⟨hp, hw⟩ := (pendingCount_zero hc hb).1 h0
    exact lawful_set ((recordLaw_idle rfl).2 ⟨countsLaw_congr hc rfl rfl rfl rfl rfl, he, hp, hw, hb, hr⟩) rfl
  · rw [afterBatch_pending h0]
    exact waitAndAttempt_lawful
      ((recordLaw_waiting rfl).2 ⟨countsLaw_congr hc rfl rfl rfl rfl rfl, he, hb, h0⟩)

theorem tellLine_record (i : SourceId) (m : LineId → Instr) (s : State) :
    (tellLine i m s).src = s.src ∧ (tellLine i m s).poolFree = s.poolFree := by
  unfold tellLine
  split <;> exact ⟨rfl, rfl⟩

theorem complete_lawful {i : SourceId} {s : State} (hc : countsLaw i (s.src i)) (he : (s.src i).enable = true)
    (hr : (s.src i).slotRequest = none) : lawful i s (complete i s) := by
  obtain ⟨hrec, hcells⟩ := endBatch_record i .delivered s
  obtain ⟨hsrc, hpool⟩ := tellLine_record i .completionReport (endBatch i .delivered s)
  refine lawful_trans (t := tellLine i .completionReport (endBatch i .delivered s)) (by rw [hsrc, hpool]; exact hcells) ?_
  refine afterBatch_lawful ?_ ?_ ?_ ?_ <;> rw [hsrc, hrec]
  · exact countsLaw_fewerWords hc rfl (List.tail_sublist _) rfl rfl rfl
  · exact he
  · exact hr

theorem discardExpired_lawful {i : SourceId} {s : State} (hc : countsLaw i (s.src i)) (he : (s.src i).enable = true) :
    lawful i s (discardExpired i s) := by
  obtain ⟨hrec, hcells⟩ := endBatch_record i .expired
    ((s.send (endOfWork i (s.src i))).setSrc i { s.src i with slotRequest := none })
  rw [State.setSrc_src_same] at hrec hcells
  refine lawful_trans (t := endBatch i .expired
    ((s.send (endOfWork i (s.src i))).setSrc i { s.src i with slotRequest := none })) hcells ?_
  refine afterBatch_lawful ?_ ?_ ?_ ?_ <;> rw [hrec]
  · exact countsLaw_fewerWords hc rfl (List.tail_sublist _) rfl rfl rfl
  · exact he

theorem endDraining_lawful {i : SourceId} {s : State} (b : Batch) (hc : countsLaw i (s.src i))
    (he : (s.src i).enable = false) (hp : (s.src i).pending = 0) (hl : (s.src i).words.length ≤ 1)
    (hr : (s.src i).slotRequest = none) : lawful i s (endDraining i b s) := by
  have finish : ∀ (o : LastOutcome) (u : State), u.src i = (endBatch i o s).src i →
      u.poolFree = (endBatch i o s).poolFree → lawful i s (u.setSrc i { u.src i with state := .off }) := by
    intro o u hu hpool
    obtain ⟨hrec, hcells⟩ := endBatch_record i o s
    refine lawful_trans (t := u) (by rw [hu, hpool]; exact hcells) (lawful_set ?_ rfl)
    rw [hu, hrec]
    have hnil : (s.src i).words.tail = [] := by
      rw [← List.length_eq_zero_iff, List.length_tail]; omega
    exact (recordLaw_off rfl).2
      ⟨countsLaw_fewerWords hc rfl (List.tail_sublist _) rfl rfl rfl, he, hp, hnil, rfl, hr⟩
  simp only [endDraining]
  split
  · obtain ⟨hsrc, hpool⟩ := tellLine_record i .completionReport (endBatch i .delivered s)
    exact finish .delivered _ (by rw [hsrc]) hpool
  · exact finish .revoked _ rfl rfl

/-- The check after a report has changed a copy, of a batch whose other copies stay lawful (R22, R27). -/
theorem checkBatch_lawful {i : SourceId} {s : State} {r : Source} {b b' : Batch} (h : recordLaw i r)
    (hb : r.batch = some b) (hcount : b'.count = b.count)
    (hdraining : r.state = .draining → ¬ hasUntaken b' ∧ b'.offer = none)
    (hs : s.src i = { r with batch := some b' }) : lawful i s (checkBatch i s) := by
  have hb' : (s.src i).batch = some b' := by rw [hs]
  have hc : countsLaw i (s.src i) := by rw [hs]; exact countsLaw_congr h.counts rfl rfl rfl rfl rfl
  rcases recordLaw_batch h hb with ha | hd
  · have ha' : (s.src i).state = .active := by rw [hs]; exact ha
    obtain ⟨-, -, he, -⟩ := (recordLaw_active ha).1 h
    rw [checkBatch_active hb' ha']
    split
    · next hcompletes =>
      simp only [completes, Bool.and_eq_true, Option.isNone_iff_eq_none] at hcompletes
      exact complete_lawful hc (by rw [hs]; exact he) hcompletes.1.2
    · refine lawful_refl ?_
      rw [hs]
      exact recordLaw_batchChanged h hb hcount fun hd => absurd (ha.symm.trans hd) (by simp)
  · have hd' : (s.src i).state = .draining := by rw [hs]; exact hd
    obtain ⟨-, -, he, hp, hl, hr, -⟩ := (recordLaw_draining hd).1 h
    rw [checkBatch_draining hb' hd']
    split
    · next hin =>
      refine lawful_refl ?_
      rw [hs]
      refine recordLaw_batchChanged h hb hcount fun hd => ⟨?_, hdraining hd⟩
      obtain ⟨p, hp⟩ := (someCopy_iff _ _).1 hin
      exact ⟨p, by simpa using hp⟩
    · exact endDraining_lawful b' hc (by rw [hs]; exact he) (by rw [hs]; exact hp) (by rw [hs]; exact hl)
        (by rw [hs]; exact hr)

/-- Return to pending (R23). -/
theorem returnToPending_lawful {i : SourceId} {s : State} {b b₀ : Batch} (o : LastOutcome) (h : recordLaw i (s.src i))
    (ha : (s.src i).state = .active) (hb : (s.src i).batch = some b₀) (hcount : b.count = b₀.count) :
    lawful i s (returnToPending i o b s) := by
  obtain ⟨hc, hword, he, b₁, hb₁, hlow, hhigh⟩ := (recordLaw_active ha).1 h
  rw [hb] at hb₁
  cases hb₁
  have hmerged : countsLaw i (merged (s.src i) b) ∧ (merged (s.src i) b).words = (s.src i).words ∧
      (merged (s.src i) b).enable = (s.src i).enable ∧
      ∀ r', r'.routing = (s.src i).routing → r'.words = (s.src i).words → r'.batch = none →
        r'.pending = (merged (s.src i) b).pending → pendingCount r' ≠ 0 := by
    obtain ⟨hkind, hroom, hlim, hstamp, hmark, hby⟩ := hc
    rcases hby with ⟨⟨g, k, hk⟩, hw⟩ | ⟨⟨d, q, hk⟩, hp⟩
    · simp only [merged, hk]
      refine ⟨⟨hkind, hroom, by simp, ?_, ?_, .inl ⟨⟨g, k, hk⟩, hw⟩⟩, trivial, trivial, fun r' hr' _ _ hp' => ?_⟩
      · simp only [Option.isSome_some, true_iff]; omega
      · simp only; omega
      · rw [pendingCount, hr', hk]; simp only [hp']; omega
    · simp only [merged, hk]
      refine ⟨⟨hkind, hroom, hlim, hstamp, hmark, .inr ⟨⟨d, q, hk⟩, hp⟩⟩, trivial, trivial, fun r' hr' hw' hb' _ => ?_⟩
      rw [pendingCount, hr', hk]
      simp [pendingWords, hb', hw', hword d q hk]
  obtain ⟨hcounts, hwords, henable, hpending⟩ := hmerged
  obtain ⟨hrouting, -⟩ : (merged (s.src i) b).routing = (s.src i).routing ∧ True := by
    unfold merged; split <;> simp
  refine lawful_trans (t := s.setSrc i { merged (s.src i) b with batch := none, lastOutcome := o })
    (by simp [hwords]) (waitAndAttempt_lawful ?_)
  rw [State.setSrc_src_same]
  exact (recordLaw_waiting rfl).2 ⟨countsLaw_congr hcounts rfl rfl rfl rfl rfl, henable.trans he, rfl,
    hpending _ hrouting hwords rfl rfl⟩

/-- A SHARED batch becomes FALLBACK in an ACTIVE source (R20). -/
theorem convertToFallback_lawful {i : SourceId} {s : State} {b b₀ : Batch} (f : Port) (h : recordLaw i (s.src i))
    (ha : (s.src i).state = .active) (hb : (s.src i).batch = some b₀) (hcount : b.count = b₀.count) :
    lawful i s (convertToFallback i b f s) :=
  lawful_send _ (lawful_set (recordLaw_batchChanged h hb hcount fun hd => absurd (ha.symm.trans hd) (by simp)) rfl)

theorem noReOffer_lawful {i : SourceId} {s : State} {b b₀ : Batch} (h : recordLaw i (s.src i))
    (ha : (s.src i).state = .active) (hb : (s.src i).batch = some b₀) (hcount : b.count = b₀.count) :
    lawful i s (noReOffer i b s) := by
  unfold noReOffer
  split
  · exact convertToFallback_lawful _ h ha hb hcount
  · exact lawful_send _ (discardExpired_lawful h.counts ((recordLaw_active ha).1 h).2.2.1)

theorem openAnswer_lawful {i : SourceId} {s : State} {b b₀ : Batch} (k : SlotId) (candidates : PortSet)
    (h : recordLaw i (s.src i)) (ha : (s.src i).state = .active) (hb : (s.src i).batch = some b₀)
    (hcount : b.count = b₀.count) : lawful i s (openAnswer k i b candidates s) :=
  lawful_send _ (lawful_set (recordLaw_batchChanged h hb hcount fun hd => absurd (ha.symm.trans hd) (by simp)) rfl)

/-! ### Reports about a batch -/

theorem draining_copies {i : SourceId} {r : Source} {b : Batch} (h : recordLaw i r) (hb : r.batch = some b)
    (hd : r.state = .draining) : hasInService b ∧ ¬ hasUntaken b ∧ b.offer = none := by
  obtain ⟨-, -, -, -, -, -, b', hb', hrest⟩ := (recordLaw_draining hd).1 h
  rw [hb] at hb'
  cases hb'
  exact hrest

/-- A source that has an untaken copy, or an open offer, is not DRAINING. -/
theorem active_of_untaken {i : SourceId} {r : Source} {b : Batch} (h : recordLaw i r) (hb : r.batch = some b)
    (hu : hasUntaken b ∨ b.offer ≠ none) : r.state = .active := by
  rcases recordLaw_batch h hb with ha | hd
  · exact ha
  · obtain ⟨-, huntaken, hoffer⟩ := draining_copies h hb hd
    exact absurd hu (not_or.2 ⟨huntaken, not_not.2 hoffer⟩)

/-- What a copy in some state other than NONE says: the source has the batch named. -/
theorem copyOf_some {s : State} {i : SourceId} {p : Port} {ref : Nat} (h : copyOf s i p ref ≠ .noCopy) :
    ∃ b, batchOf s i ref = some b ∧ (s.src i).batch = some b ∧ b.copy p = copyOf s i p ref := by
  unfold copyOf at h ⊢
  split at h
  · next b hb => exact ⟨b, hb, (batchOf_spec hb).1, rfl⟩
  · exact absurd rfl h

/-- A report about an untaken copy changes copies of an ACTIVE source's batch. -/
theorem changeBatch_lawful {i : SourceId} {p : Port} {ref : Nat} {s : State} {f : Batch → Batch}
    (h : recordLaw i (s.src i)) (hf : ∀ b, (f b).count = b.count)
    (hu : copyOf s i p ref = .owed ∨ copyOf s i p ref = .queued ∨ copyOf s i p ref = .offered) :
    lawful i s (changeBatch i ref f s) := by
  obtain ⟨b, hnamed, hb, hcopy⟩ := copyOf_some (s := s) (i := i) (p := p) (ref := ref) (by
    rcases hu with e | e | e <;> rw [e] <;> simp)
  have ha := active_of_untaken h hb (.inl ⟨p, by rwa [hcopy]⟩)
  simp only [changeBatch, hnamed]
  exact lawful_set (recordLaw_batchChanged h hb (hf b) fun hd => absurd (ha.symm.trans hd) (by simp)) rfl

/-- A copy in service that ends leaves no untaken copy where there was none. -/
theorem setCopy_untaken {b : Batch} {p : Port} {c : CopyState} (hc : c = .done ∨ c = .noCopy) (h : ¬ hasUntaken b) :
    ¬ hasUntaken (b.setCopy p c) := by
  rintro ⟨q, hq⟩
  rw [Batch.setCopy_copy] at hq
  split at hq
  · rcases hc with rfl | rfl <;> simp at hq
  · exact h ⟨q, hq⟩

/-- The end of one copy and the check that follows. -/
theorem endCopy_lawful {i : SourceId} {p : Port} {s : State} {b : Batch} {c : CopyState} (h : recordLaw i (s.src i))
    (hb : (s.src i).batch = some b) (hc : c = .done ∨ c = .noCopy) :
    lawful i s (checkBatch i (setBatch i (b.setCopy p c) s)) := by
  refine lawful_trans (t := setBatch i (b.setCopy p c) s) (by simp [setBatch]) ?_
  refine checkBatch_lawful h hb (by rfl) (fun hd => ?_) (State.setSrc_src_same _ _ _)
  obtain ⟨-, huntaken, hoffer⟩ := draining_copies h hb hd
  exact ⟨setCopy_untaken hc huntaken, hoffer⟩

theorem applyDone_lawful {i : SourceId} (p : Port) (ref : Nat) {s : State} (h : recordLaw i (s.src i)) :
    lawful i s (applyDone i p ref s) := by
  unfold applyDone
  split
  · next hcopy =>
    obtain ⟨b, hnamed, hb, -⟩ := copyOf_some (s := s) (i := i) (p := p) (ref := ref) (by rw [hcopy]; simp)
    simp only [changeBatch, hnamed]
    exact endCopy_lawful h hb (.inl rfl)
  · exact lawful_refl h

theorem applyWithdrawal_lawful {i : SourceId} (p : Port) (ref : Nat) {s : State} (h : recordLaw i (s.src i)) :
    lawful i s (applyWithdrawal i p ref s) := by
  unfold applyWithdrawal
  split
  · exact lawful_refl h
  · next b hnamed =>
    have hb := (batchOf_spec hnamed).1
    split
    · next hcond =>
      split
      · exact returnToPending_lawful _ h hcond.1 hb (by rfl)
      · exact returnToPending_lawful _ h hcond.1 hb (by rfl)
      · exact endCopy_lawful h hb (.inl rfl)
      · exact lawful_refl h
    · exact lawful_refl h

theorem revokeShared_lawful {i : SourceId} (p : Port) {b : Batch} {s : State} (h : recordLaw i (s.src i))
    (ha : (s.src i).state = .active) (hb : (s.src i).batch = some b) : lawful i s (revokeShared i p b s) := by
  have hset : lawful i s (setBatch i { b.setCopy p .noCopy with excluded := withPort b.excluded p } s) :=
    lawful_set (recordLaw_batchChanged h hb (by rfl) fun hd => absurd (ha.symm.trans hd) (by simp)) rfl
  have hrec : (setBatch i { b.setCopy p .noCopy with excluded := withPort b.excluded p } s).src i =
      { s.src i with batch := some { b.setCopy p .noCopy with excluded := withPort b.excluded p } } :=
    State.setSrc_src_same _ _ _
  simp only [revokeShared]
  split
  · exact lawful_trans hset.2 (noReOffer_lawful hset.1 (by rw [hrec]; exact ha) (by rw [hrec]) rfl)
  · exact lawful_trans hset.2 (requestSlot_lawful _ _ hset.1 (.inr (by rw [hrec]; exact ha)))

theorem applyRevoked_lawful {i : SourceId} (p : Port) (ref : Nat) {s : State} (h : recordLaw i (s.src i)) :
    lawful i s (applyRevoked i p ref s) := by
  unfold applyRevoked
  split
  · exact lawful_refl h
  · next b hnamed =>
    have hb := (batchOf_spec hnamed).1
    split
    · split
      · exact endCopy_lawful h hb (.inr rfl)
      · next ha =>
        split
        · exact revokeShared_lawful p h ha hb
        · exact returnToPending_lawful _ h ha hb (by rfl)
        · exact returnToPending_lawful _ h ha hb (by rfl)
        · exact endCopy_lawful h hb (.inl rfl)
      · exact lawful_refl h
    · exact lawful_refl h

theorem applyExpiry_lawful {i : SourceId} (ref : Nat) (converted : Bool) {s : State} (h : recordLaw i (s.src i)) :
    lawful i s (applyExpiry i ref converted s) := by
  unfold applyExpiry
  split
  · exact lawful_refl h
  · next b hnamed =>
    have hb := (batchOf_spec hnamed).1
    split
    · next hoffer =>
      have ha := active_of_untaken h hb (.inr fun e => by simp [e] at hoffer)
      have hset : lawful i s
          (setBatch i { mapCopies (fun _ c => if c = .offered then .noCopy else c) b with offer := none } s) :=
        lawful_set (recordLaw_batchChanged h hb (by rfl) fun hd => absurd (ha.symm.trans hd) (by simp)) rfl
      have hrec : (setBatch i { mapCopies (fun _ c => if c = .offered then .noCopy else c) b with offer := none } s).src i =
          { s.src i with
            batch := some { mapCopies (fun _ c => if c = .offered then .noCopy else c) b with offer := none } } :=
        State.setSrc_src_same _ _ _
      have ha' : ((setBatch i { mapCopies (fun _ c => if c = .offered then .noCopy else c) b with offer := none } s).src
          i).state = .active := by rw [hrec]; exact ha
      simp only []
      split
      · exact lawful_trans hset.2 (convertToFallback_lawful _ hset.1 ha' (by rw [hrec]) rfl)
      · exact lawful_trans hset.2
          (discardExpired_lawful hset.1.counts ((recordLaw_active ha').1 hset.1).2.2.1)
    · exact lawful_refl h

theorem grantFirst_lawful {i : SourceId} (k : SlotId) {s : State} (h : recordLaw i (s.src i)) :
    lawful i s (grantFirst k i s) := by
  simp only [grantFirst]
  split
  · next hready =>
    split
    · exact attemptFallback_lawful (s := s.send [.grantDecline k]) h hready.1
    · have hset := lawful_set (s := s) (recordLaw_formed h hready.1 (newBatch_count .shared h hready.1)) rfl
      refine lawful_trans hset.2 (openAnswer_lawful (b₀ := newBatch (s.src i) .shared) k _ hset.1 ?_ ?_ rfl)
      · rw [State.setSrc_src_same]; rfl
      · rw [State.setSrc_src_same]; rfl
  · exact lawful_send _ (lawful_refl h)

theorem grantReOffer_lawful {i : SourceId} (k : SlotId) (ref : Nat) {s : State} (h : recordLaw i (s.src i))
    (ha : ∀ b, (s.src i).batch = some b → (s.src i).state = .active) : lawful i s (grantReOffer k i ref s) := by
  unfold grantReOffer
  split
  · exact lawful_send _ (lawful_refl h)
  · next b hnamed =>
    have hb := (batchOf_spec hnamed).1
    simp only []
    split
    · exact noReOffer_lawful (s := s.send [.grantDecline k]) h (ha b hb) hb rfl
    · exact openAnswer_lawful k _ h (ha b hb) hb rfl

theorem applyGrant_lawful {i : SourceId} (k : SlotId) (kind : RequestKind) (req : Nat) {s : State}
    (h : recordLaw i (s.src i)) : lawful i s (applyGrant k i kind req s) := by
  unfold applyGrant
  split
  · next hreq =>
    have hset := lawful_set (s := s) (recordLaw_noRequest h) rfl
    simp only []
    split
    · exact lawful_trans hset.2 (grantFirst_lawful k hset.1)
    · refine lawful_trans hset.2 (grantReOffer_lawful k _ hset.1 fun b hb => ?_)
      rw [State.setSrc_src_same] at hb ⊢
      rcases recordLaw_batch h hb with ha | hd
      · exact ha
      · obtain ⟨-, -, -, -, -, hnone, -⟩ := (recordLaw_draining hd).1 h
        rw [hreq] at hnone
        cases hnone
  · exact lawful_send _ (lawful_refl h)

/-- What a report does to its source. -/
theorem report_lawful {c : Instr} {act : State → State} (h : eventAct c = some act) (hc : tableRow c = true) :
    (∃ test, act = attemptWhere test) ∨
    ∃ i, ∀ s, sourceOp i s (act s) ∧ (recordLaw i (s.src i) → lawful i s (act s)) := by
  cases c <;> try (cases hc; done)
  case attachReport => exact .inl ⟨_, (Option.some.inj h).symm⟩
  case runReport => exact .inl ⟨_, (Option.some.inj h).symm⟩
  case occurrenceReport l =>
    cases h
    exact .inr ⟨sourceOfLine l, fun s => ⟨occurrence_op _ s, occurrence_lawful⟩⟩
  case admittedReport i p ref =>
    cases h
    refine .inr ⟨i, fun s => ⟨applyAdmitted_op i p ref s, fun hr => ?_⟩⟩
    unfold applyAdmitted
    split
    · next hcopy => exact changeBatch_lawful (p := p) hr (fun _ => rfl) (.inl hcopy)
    · exact lawful_refl hr
  case takenReport i p ref seq =>
    cases h
    refine .inr ⟨i, fun s => ⟨applyTaken_op i p ref s, fun hr => ?_⟩⟩
    unfold applyTaken
    split
    · next hcopy => exact changeBatch_lawful (p := p) hr (fun _ => rfl) (.inr (.inl hcopy))
    · exact lawful_send _ (lawful_refl hr)
    · exact lawful_refl hr
  case doneReport i p ref => cases h; exact .inr ⟨i, fun s => ⟨applyDone_op i p ref s, applyDone_lawful p ref⟩⟩
  case withdrawalReport i p ref =>
    cases h; exact .inr ⟨i, fun s => ⟨applyWithdrawal_op i p ref s, applyWithdrawal_lawful p ref⟩⟩
  case revokedReport i p ref kind =>
    cases h; exact .inr ⟨i, fun s => ⟨applyRevoked_op i p ref s, applyRevoked_lawful p ref⟩⟩
  case claimGranted i ref p =>
    cases h
    refine .inr ⟨i, fun s => ⟨applyGranted_op i ref p s, fun hr => ?_⟩⟩
    unfold applyGranted
    split
    · next hcopy => exact changeBatch_lawful (p := p) hr (fun _ => rfl) (.inr (.inr hcopy))
    · exact lawful_send _ (lawful_refl hr)
    · exact lawful_refl hr
  case candidateLost i ref p =>
    cases h
    refine .inr ⟨i, fun s => ⟨applyLost_op i ref p s, fun hr => ?_⟩⟩
    unfold applyLost
    split
    · next hcopy => exact changeBatch_lawful (p := p) hr (fun _ => rfl) (.inr (.inr hcopy))
    · exact lawful_refl hr
  case expiryReport i ref conv cause =>
    cases h; exact .inr ⟨i, fun s => ⟨applyExpiry_op i ref conv s, applyExpiry_lawful ref conv⟩⟩
  case slotGrant k i kind req =>
    cases h; exact .inr ⟨i, fun s => ⟨applyGrant_op k i kind req s, applyGrant_lawful k kind req⟩⟩

end Sys2Proof.Machine
end

section
/-! PROOFS. The Source Table and the Payload Pool as a whole: no step breaks their laws (R7, R43), nor R139's of the owners. -/

namespace Sys2Proof.Machine

/-- The laws of every record, and the sum of R43. -/
def tableLaw (s : State) : Prop := (∀ i, recordLaw i (s.src i)) ∧ wordsHeld s + s.poolFree = 64

theorem tableLaw_iff {s : State} : tableLaw s ↔ sourcesLaw s ∧ poolLaw s := by
  constructor
  · rintro ⟨hr, hsum⟩
    exact ⟨fun i => ⟨(hr i).1, (hr i).2.1, (hr i).2.2.1⟩, hsum, fun i => (hr i).2.2.2⟩
  · rintro ⟨hr, hsum, hroom⟩
    refine ⟨fun i => ?_, hsum⟩
    obtain ⟨hkind, hfields, hsource⟩ := hr i
    exact ⟨hkind, hfields, hsource, hroom i⟩

theorem wordsHeld_eq_sum (s : State) : wordsHeld s = ∑ i : SourceId, (s.src i).words.length := by
  rw [wordsHeld, ← List.sum_ofFn]
  congr 1
  refine List.ext_getElem (by rw [List.length_map, Vector.length_toList, List.length_ofFn]) fun n h₁ h₂ => ?_
  rw [List.getElem_ofFn, List.getElem_map]
  rfl

/-- One record changed: the words of the others stay in the sum. -/
theorem wordsHeld_one {i : SourceId} {s t : State} (h : ∀ j, j ≠ i → t.src j = s.src j) :
    wordsHeld t + (s.src i).words.length = wordsHeld s + (t.src i).words.length := by
  have split (u : State) : wordsHeld u = (∑ j ∈ Finset.univ.erase i, (u.src j).words.length) + (u.src i).words.length := by
    rw [wordsHeld_eq_sum, Finset.sum_erase_add _ _ (Finset.mem_univ i)]
  have hothers : ∑ j ∈ Finset.univ.erase i, (t.src j).words.length = ∑ j ∈ Finset.univ.erase i, (s.src j).words.length :=
    Finset.sum_congr rfl fun j hj => by rw [h j (Finset.ne_of_mem_erase hj)]
  rw [split t, split s, hothers]
  omega

/-- What an operation on one source leaves of the laws of the table. -/
theorem tableLaw_one {i : SourceId} {s t : State} (h : ∀ j, j ≠ i → t.src j = s.src j) (hl : lawful i s t)
    (hs : tableLaw s) : tableLaw t := by
  obtain ⟨hr, hsum⟩ := hs
  obtain ⟨hri, hcells⟩ := hl
  refine ⟨fun j => ?_, ?_⟩
  · by_cases e : j = i
    · subst e; exact hri
    · rw [h j e]; exact hr j
  · have hone := wordsHeld_one h
    omega

theorem tableLaw_congr {s t : State} (hsrc : t.sources = s.sources) (hpool : t.poolFree = s.poolFree) :
    tableLaw s → tableLaw t := by
  simp only [tableLaw, State.src, wordsHeld, hsrc, hpool]
  exact id

theorem tableLaw_send {s : State} (ms : List Instr) : tableLaw s → tableLaw (s.send ms) := tableLaw_congr rfl rfl

theorem tableLaw_calm {s t : State} (h : calm s t) : tableLaw s → tableLaw t := tableLaw_congr h.sources h.pool

theorem tableLaw_sameBut {l : List Part} {s t : State} (h : sameBut l s t) (hs : Part.sources ∉ l) (hp : Part.pool ∉ l) :
    tableLaw s → tableLaw t := tableLaw_congr (h .sources hs) (h .pool hp)

/-- A round over the table, each step of which keeps the laws. -/
theorem tableLaw_round {f : State → SourceId → State} (hf : ∀ {s i}, tableLaw s → tableLaw (f s i)) (l : List SourceId) :
    ∀ {s : State}, tableLaw s → tableLaw (l.foldl f s) := by
  induction l with
  | nil => exact fun h => h
  | cons i l ih => exact fun h => ih (hf h)

theorem attemptWhere_tableLaw (test : Source → Bool) {s : State} (h : tableLaw s) : tableLaw (attemptWhere test s) := by
  refine tableLaw_round (fun {s i} h => ?_) _ h
  split
  · exact tableLaw_one (attempt_op i s).2.1 (attempt_lawful (h.1 i)) h
  · exact h

theorem event_tableLaw {c : Instr} {act : State → State} (h : eventAct c = some act) {s : State} (hs : tableLaw s) :
    tableLaw (act s) := by
  rcases eventAct_cases h with ha | ⟨hc, -⟩ | ⟨-, ha⟩ | ⟨p, -, ha⟩
  · exact tableLaw_sameBut (ha s) (by simp) (by simp) hs
  · rcases report_lawful h hc with ⟨test, rfl⟩ | ⟨i, hi⟩
    · exact attemptWhere_tableLaw test hs
    · exact tableLaw_one (hi s).1.2.1 ((hi s).2 (hs.1 i)) hs
  · exact tableLaw_sameBut (ha s) (by simp) (by simp) hs
  · obtain ⟨u, hu, ht⟩ := ha s
    exact tableLaw_calm (calm_of_link ht) (tableLaw_sameBut hu.1 (by simp) (by simp) hs)

/-! ### The source commands -/

/-- The kind of a valid block is that of its source, and a soft one's depth is 1 to 8 (R142). -/
theorem routingOf_kindLaw {i : SourceId} {b : RouteBlock} {r : Routing} {rec : Source} (h : routingOf i b = some r) :
    kindLaw i { rec with routing := r } := by
  unfold routingOf at h
  split at h
  · next mode targets fallback priority kind _ _ _ _ hkind =>
    have hr : ({ mode, targets, fallback, priority, kind } : Routing) = r := by
      simp only at h
      split at h
      · exact Option.some.inj h
      · cases h
    subst hr
    simp only [kindLaw]
    split at hkind
    · next hsoft =>
      unfold softFieldsOf at hkind
      split at hkind
      · cases hkind
      · split at hkind <;> cases hkind
        next hdepth => exact ⟨by simpa [isSoft] using hsoft, hdepth⟩
    · next hline =>
      unfold lineFieldsOf at hkind
      split at hkind
      · cases hkind
      · split at hkind <;> cases hkind
        simpa [isSoft] using hline
  · cases h

/-- A record with nothing pending, no batch, no request and no words, OFF, keeps its laws if its kind does. -/
theorem recordLaw_empty {i : SourceId} {r : Source} (hk : kindLaw i r) (hs : r.state = .off) (he : r.enable = false)
    (hp : r.pending = 0) (ho : r.overrun = false) (hf : r.firstStamp = none) (hw : r.words = []) (hb : r.batch = none)
    (hq : r.slotRequest = none) : recordLaw i r := by
  refine (recordLaw_off hs).2 ⟨⟨hk, by simp [hw], by omega, by simp [hf, hp], fun _ => ho, ?_⟩, he, hp, hw, hb, hq⟩
  cases hkind : r.routing.kind with
  | line g k => exact .inl ⟨⟨g, k, rfl⟩, hw⟩
  | soft d q => exact .inr ⟨⟨d, q, rfl⟩, hp⟩

theorem kindLaw_powerUp (i : SourceId) (r : Source) : kindLaw i { r with routing := powerUpRouting i } := by
  by_cases h : i.val < 32
  · simp [kindLaw, powerUpRouting, h, lineRouting]
  · simp [kindLaw, powerUpRouting, h, softRouting]
    omega

theorem recordLaw_fresh (i : SourceId) (a b : Nat) : recordLaw i (freshSource (powerUpRouting i) a b) :=
  recordLaw_empty (kindLaw_powerUp i (freshSource (powerUpRouting i) a b)) rfl rfl rfl rfl rfl rfl rfl rfl

/-- The fields of an owner do not enter the laws of a record. -/
theorem recordLaw_owner {i : SourceId} {r : Source} (o : Option Port) (l : Bool) (h : recordLaw i r) :
    recordLaw i { r with owner := o, lock := l } := h

theorem resetSource_lawful (i : SourceId) (s : State) : lawful i s (resetSource i s) := by
  rw [resetSource_eq]
  refine lawful_send _ ⟨?_, ?_⟩
  · exact (State.setSrc_src_same s i _).symm ▸ recordLaw_fresh i _ _
  · have hsrc := State.setSrc_src_same s i (freshSource (powerUpRouting i) (s.src i).nextRef (s.src i).nextRequest)
    change s.poolFree + _ + ((s.setSrc i _).src i).words.length = _
    rw [hsrc]
    simp [freshSource]

theorem resetTable_tableLaw {s : State} (h : tableLaw s) : tableLaw (resetTable s) := by
  refine tableLaw_round (fun {s i} h => ?_) _ h
  split
  · exact h
  · refine tableLaw_one (i := i) (fun j hj => ?_) (resetSource_lawful i s) h
    rw [resetSource_eq]
    exact State.setSrc_src_ne _ _ _ _ hj

/-- A list cut short frees its cells. -/
theorem setWords_cells {i : SourceId} {ws : List PoolWord} {s : State} (h : ws.length ≤ (s.src i).words.length) :
    (setWords i ws s).poolFree + ((setWords i ws s).src i).words.length = s.poolFree + (s.src i).words.length := by
  rw [setWords_src_same]
  change s.poolFree + (s.src i).words.length - ws.length + ws.length = _
  omega

/-- What is left of a batch in service has no untaken copy (R26). -/
theorem withoutUntaken_copies {b : Batch} (h : someCopy b (· == .inService) = true) :
    hasInService (withoutUntaken b) ∧ ¬ hasUntaken (withoutUntaken b) := by
  have hcopy : ∀ p, (withoutUntaken b).copy p =
      if outstanding (b.copy p) && b.copy p != .inService then .noCopy else b.copy p :=
    fun p => mapCopies_copy (fun _ c => if outstanding c && c != .inService then .noCopy else c) b p
  constructor
  · obtain ⟨p, hp⟩ := (someCopy_iff _ _).1 h
    have hp' : b.copy p = .inService := by simpa using hp
    exact ⟨p, by rw [hcopy, hp']; rfl⟩
  · rintro ⟨p, hp⟩
    rw [hcopy] at hp
    cases hb : b.copy p <;> simp [hb, outstanding] at hp

theorem disableSource_lawful {i : SourceId} {s : State} (h : recordLaw i (s.src i)) : lawful i s (disableSource i s) := by
  have cleared : ∀ (r : Source), r.routing.kind = (s.src i).routing.kind → r.words.Sublist (s.src i).words →
      r.pending = 0 → r.overrun = false → r.firstStamp = none → countsLaw i r :=
    fun r hk hw hp ho hf => countsLaw_cleared h.counts hk hw hp ho hf
  have cut : ∀ (r : Source) (ws : List PoolWord), r.words = (s.src i).words → ws.length ≤ (s.src i).words.length →
      recordLaw i { r with words := ws } → lawful i s (setWords i ws ((s.send (endOfWork i (s.src i))).setSrc i r)) := by
    intro r ws hr hlen hl
    refine ⟨by simpa using hl, ?_⟩
    rw [setWords_cells (by simpa [hr] using hlen), State.setSrc_src_same, hr]
    rfl
  simp only [disableSource]
  split
  · exact lawful_refl h
  · exact lawful_refl h
  · refine lawful_tellLine _ ?_
    split
    · next hb =>
      exact cut _ _ rfl (by simp)
        ((recordLaw_off rfl).2 ⟨cleared _ rfl (by simp) rfl rfl rfl, rfl, rfl, rfl, hb, rfl⟩)
    · next hidle hoff b hb =>
      split
      · next hin =>
        obtain ⟨hservice, huntaken⟩ := withoutUntaken_copies hin
        refine cut _ _ rfl (by simp) ((recordLaw_draining rfl).2
          ⟨cleared _ rfl (List.take_sublist _ _) rfl rfl rfl, fun d q hk => ?_, rfl, rfl, by simp, rfl,
            _, rfl, hservice, huntaken, rfl⟩)
        have hword := (recordLaw_iff.1 h).2.1 (by rw [hb]; rfl) d q hk
        simpa using hword
      · exact cut _ _ rfl (by simp)
          ((recordLaw_off rfl).2 ⟨cleared _ rfl (by simp) rfl rfl rfl, rfl, rfl, rfl, rfl, rfl⟩)

/-- What RAISE's checks say of its source (R45). -/
theorem raiseCheck_ok {s : State} {p : Port} {b : Byte} {i : SourceId} (h : raiseCheck s p b = .ok i) :
    ∃ d q, (s.src i).routing.kind = .soft d q ∧ (s.src i).state ≠ .off ∧ (s.src i).state ≠ .draining ∧
      (s.src i).words.length < d ∧ s.poolFree ≠ 0 := by
  unfold raiseCheck at h
  split at h
  · cases h
  · split at h
    · cases h
    · next j _ d q hk =>
      split at h
      · cases h
      · split at h
        · cases h
        · next hstate =>
          split at h
          · cases h
          · split at h <;> cases h
            exact ⟨d, q, hk, fun e => hstate (.inl e), fun e => hstate (.inr e), by omega, by assumption⟩

theorem raiseOn_lawful {i : SourceId} {s : State} {d : Nat} {q : PortSet} (w : PoolWord) (h : recordLaw i (s.src i))
    (hk : (s.src i).routing.kind = .soft d q) (hoff : (s.src i).state ≠ .off) (hdrain : (s.src i).state ≠ .draining)
    (hroom : (s.src i).words.length < d) (hcell : s.poolFree ≠ 0) : lawful i s (raiseOn i w s) := by
  have hcounts : countsLaw i { s.src i with words := (s.src i).words ++ [w] } := by
    obtain ⟨hkind, -, hcount, hstamp, hmark, hby⟩ := h.counts
    refine ⟨hkind, by simp [depthLimit, hk]; omega, hcount, hstamp, hmark, ?_⟩
    rcases hby with ⟨⟨g, k, hk'⟩, -⟩ | hsoft
    · rw [hk] at hk'; cases hk'
    · exact .inr hsoft
  have hsum : (setWords i ((s.src i).words ++ [w]) s).poolFree +
      ((setWords i ((s.src i).words ++ [w]) s).src i).words.length = s.poolFree + (s.src i).words.length := by
    rw [setWords_src_same]
    change s.poolFree + (s.src i).words.length - ((s.src i).words ++ [w]).length + ((s.src i).words ++ [w]).length = _
    simp only [List.length_append, List.length_singleton]
    omega
  have waits : (s.src i).enable = true → (s.src i).batch = none →
      lawful i s (waitAndAttempt i (setWords i ((s.src i).words ++ [w]) s)) := by
    intro he hb
    refine lawful_trans hsum (waitAndAttempt_lawful ?_)
    rw [setWords_src_same]
    refine (recordLaw_waiting rfl).2 ⟨countsLaw_congr hcounts rfl rfl rfl rfl rfl, he, hb, ?_⟩
    simp [pendingCount, hk, pendingWords, hb]
  simp only [raiseOn, setWords_src_same]
  split
  · next hs =>
    obtain ⟨-, he, -, -, hb, -⟩ := (recordLaw_idle hs).1 h
    exact waits he hb
  · next hs =>
    obtain ⟨-, he, hb, -⟩ := (recordLaw_waiting hs).1 h
    exact waits he hb
  · next hidle hwaiting =>
    have hs : (s.src i).state = .active := by
      cases e : (s.src i).state with
      | off => exact absurd e hoff
      | idle => exact absurd e hidle
      | waiting => exact absurd e hwaiting
      | active => rfl
      | draining => exact absurd e hdrain
    obtain ⟨-, -, he, hb⟩ := (recordLaw_active hs).1 h
    refine ⟨?_, hsum⟩
    rw [setWords_src_same]
    exact (recordLaw_active (r := { s.src i with words := (s.src i).words ++ [w] }) hs).2
      ⟨hcounts, fun _ _ _ => by simp, he, hb⟩

theorem SourceEdit.tableLaw {c : Instr} {s t : State} (h : SourceEdit c s t) (hs : tableLaw s) : tableLaw t := by
  have one : ∀ {i : SourceId} {r : Source}, recordLaw i r → r.words = (s.src i).words → Machine.tableLaw (s.setSrc i r) :=
    fun hr hw => tableLaw_one (fun j hj => State.setSrc_src_ne _ _ _ _ hj) (lawful_set hr hw) hs
  cases h with
  | unchanged => exact hs
  | routed i block r unlocked off valid =>
    obtain ⟨⟨-, -, hcount, hstamp, hmark, -⟩, he, hp, hw, hb, hq⟩ := (recordLaw_off off).1 (hs.1 i)
    have ho := hmark hp
    have hf : (s.src i).firstStamp = none := by
      rw [← Option.not_isSome_iff_eq_none]; simpa [hp] using hstamp
    exact one (recordLaw_empty (routingOf_kindLaw valid) off he hp ho hf hw hb hq) rfl
  | enabled i unlocked off =>
    obtain ⟨hc, -, hp, hw, hb, hq⟩ := (recordLaw_off off).1 (hs.1 i)
    refine tableLaw_one (i := i) (fun j hj => ?_) (lawful_tellLine _ (lawful_set ((recordLaw_idle rfl).2
      ⟨countsLaw_congr hc rfl rfl rfl rfl rfl, rfl, hp, hw, hb, hq⟩) rfl)) hs
    exact ((tellLine_op i _ _).2.1 j hj).trans (State.setSrc_src_ne _ _ _ _ hj)
  | disabled i unlocked =>
    exact tableLaw_one (disableSource_frame i s).2.1 (disableSource_lawful (hs.1 i)) hs
  | ownerSet i o ms unlocked => exact one (i := i) (recordLaw_owner o _ (hs.1 i)) rfl
  | lockSet i unlocked owned => exact one (recordLaw_owner (s.src i).owner true (hs.1 i)) rfl
  | raised i p b w passed =>
    obtain ⟨d, q, hk, hoff, hdrain, hroom, hcell⟩ := raiseCheck_ok passed
    exact tableLaw_one (raiseOn_op i w s).2.1 (raiseOn_lawful w (hs.1 i) hk hoff hdrain hroom hcell) hs
  | cleared p command => exact tableLaw_send tableNotices (resetTable_tableLaw hs)

/-! ### Fresh parts -/

/-- A part with every list empty and all 64 cells free. -/
theorem tableLaw_of_empty {s : State} (hr : ∀ i, recordLaw i (s.src i)) (hw : ∀ i, (s.src i).words = [])
    (hp : s.poolFree = 64) : tableLaw s :=
  ⟨hr, by rw [wordsHeld_eq_sum, hp]; simp [hw]⟩

theorem powerUpPart_src (ssel : BitVec 3) (lin : BitVec 32) (crst : Bool) (prst : PortSet) (s : State) (i : SourceId) :
    (powerUpPart ssel lin crst prst s).src i =
      freshSource (powerUpRouting i) (s.src i).nextRef (s.src i).nextRequest := by
  simp [powerUpPart, freshPart, State.src]

theorem powerUpPart_tableLaw (ssel : BitVec 3) (lin : BitVec 32) (crst : Bool) (prst : PortSet) (s : State) :
    tableLaw (powerUpPart ssel lin crst prst s) := by
  refine tableLaw_of_empty (fun i => ?_) (fun i => ?_) rfl <;> rw [powerUpPart_src]
  · exact recordLaw_fresh i _ _
  · rfl

theorem chipResetPart_tableLaw (ssel : BitVec 3) {s : State} (h : tableLaw s) : tableLaw (chipResetPart ssel s) := by
  refine tableLaw_of_empty (fun i => ?_) (fun i => ?_) rfl <;> rw [chipResetPart_src]
  · obtain ⟨hkind, -, hsource, -⟩ := h.1 i
    unfold sourceAfterChipReset
    split
    · cases he : (s.src i).enable with
      | false =>
        exact recordLaw_empty (r := { freshSource (s.src i).routing (s.src i).nextRef (s.src i).nextRequest with
          owner := (s.src i).owner, lock := (s.src i).lock }) hkind rfl rfl rfl rfl rfl rfl rfl rfl
      | true =>
        have hc := (recordLaw_empty (r := freshSource (s.src i).routing 0 0) hkind rfl rfl rfl rfl rfl rfl rfl rfl).counts
        exact (recordLaw_idle rfl).2 ⟨countsLaw_congr hc rfl rfl rfl rfl rfl, rfl, rfl, rfl, rfl, rfl⟩
    · exact recordLaw_fresh i _ _
  · unfold sourceAfterChipReset; split <;> rfl

/-! ### Every step -/

theorem exec_keeps_tableLaw {c : Instr} {s t : State} (h : exec c s = .next t) (hs : tableLaw s) : tableLaw t := by
  rcases exec_cases h with hc | ⟨act, u, ha, hsu, hut⟩ | ⟨p, a, body, u, hp, ha, hb, hsu, -, hut⟩ |
    ⟨p, -, rfl⟩ | ⟨ssel, lin, crst, prst, rfl⟩ | ⟨ssel, rfl, hcrst⟩
  · exact tableLaw_calm hc hs
  · exact tableLaw_calm hut (event_tableLaw ha (tableLaw_calm hsu hs))
  · have hu := tableLaw_calm hsu hs
    refine tableLaw_calm hut ?_
    rcases commandBody_kinds hb with hk | hk | hk | hk
    · rw [commandBody_read hb hk]; exact hu
    · exact tableLaw_sameBut (commandBody_control hb hk u) (by simp) (by simp) hu
    · exact (commandBody_edit hb hk u).tableLaw hu
    · exact tableLaw_sameBut (commandBody_session hb hk u) (by simp) (by simp) hu
  · exact tableLaw_calm (calm_judgeAttn _) (tableLaw_sameBut (resetPort_frame p s) (by simp) (by simp) hs)
  · rw [exec_powerUp] at h
    rw [← Host.Outcome.next.inj h]
    exact powerUpPart_tableLaw ssel lin crst prst s
  · rw [exec_crstRelease ssel hcrst] at h
    rw [← Host.Outcome.next.inj h]
    exact tableLaw_send _ (chipResetPart_tableLaw ssel hs)

theorem lockedOwned_calm {s t : State} (h : calm s t) (hs : lockedOwned s) : lockedOwned t := fun i => by
  rw [h.src i]; exact hs i

theorem exec_keeps_lockedOwned {c : Instr} {s t : State} (h : exec c s = .next t) (hs : lockedOwned s) :
    lockedOwned t := by
  intro i
  by_cases hpower : ∃ ssel lin crst prst, c = .powerUp ssel lin crst prst
  · obtain ⟨ssel, lin, crst, prst, rfl⟩ := hpower
    rw [exec_powerUp] at h
    rw [← Host.Outcome.next.inj h, powerUpPart_src]
    simp [freshSource]
  · rcases exec_fields h (fun ssel lin crst prst e => hpower ⟨ssel, lin, crst, prst, e⟩) i with hsame | hmove
    · rw [hsame.lock, hsame.owner]; exact hs i
    · exact hmove.owned

/-- Settles O59, by the laws of the table, record by record, and by what a row can do to the owner and the lock. -/
theorem sourceAndPoolLawsKept : Obligations.SourceAndPoolLawsKept := by
  unfold Obligations.SourceAndPoolLawsKept
  constructor
  · intro s t hsources hpool h
    exact tableLaw_iff.1 (step_keeps tableLaw_calm exec_keeps_tableLaw h (tableLaw_iff.2 ⟨hsources, hpool⟩))
  · intro s t hs h
    exact step_keeps lockedOwned_calm exec_keeps_lockedOwned h hs

end Sys2Proof.Machine
end

section
/-! PROOFS. What a message, an event or a command frame answers, from what its act or its body does; one step of the part;
power-up, chip reset, the port reset, the lines and the Time Base. -/

namespace Sys2Proof.Machine

/-! ### Rows -/

/-- A message or event whose act changes the parts listed and sends messages. -/
theorem exec_changes {c : Instr} {act : State → State} {sent : List Instr} {changed : List Part} {s : State}
    (ha : eventAct c = some act) (hc : s.crst = false) (hs : sameBut (.messages :: changed) (s.arrive c) (act (s.arrive c)))
    (hm : (act (s.arrive c)).inFlight = s.inFlight.erase c ++ sent) :
    exec c s = .next (judgeAttn (act (s.arrive c))) ∧ eventDone c sent changed s (judgeAttn (act (s.arrive c))) := by
  refine ⟨by rw [exec_event ha, eventStep_running _ _ _ hc], hm, judgeAttn_attnLaw _, ?_⟩
  refine sameBut_trans (l₁ := [.messages]) (t := s.arrive c) (by simp [sameBut_iff]) ?_ (by simp) fun _ h => h
  exact sameBut_trans hs (l₂ := [.attn]) (by simp [sameBut_iff]) (by simp) (by simp)

/-- A message or event whose act sends messages and changes nothing. -/
theorem exec_sends {c : Instr} {act : State → State} {sent : List Instr} {s : State} (ha : eventAct c = some act)
    (hc : s.crst = false) (h : act (s.arrive c) = (s.arrive c).send sent) :
    ∃ t, exec c s = .next t ∧ eventDone c sent [] s t := by
  rw [exec_event ha]; exact event_sends hc h

/-- A message or event that does nothing. -/
theorem exec_ignored {c : Instr} {act : State → State} {s : State} (ha : eventAct c = some act) (hc : s.crst = false)
    (h : act (s.arrive c) = s.arrive c) : ∃ t, exec c s = .next t ∧ eventDone c [] [] s t :=
  exec_sends ha hc (by rw [h, State.send_nil])

/-- A message or event whose act changes one source record and sends messages. -/
theorem exec_onSource {c : Instr} {act : State → State} {sent : List Instr} {s : State} {i : SourceId} {r : Source}
    (ha : eventAct c = some act) (hc : s.crst = false) (h : act (s.arrive c) = ((s.arrive c).setSrc i r).send sent) :
    ∃ t, exec c s = .next t ∧ t.src i = r ∧ otherSources i s t ∧ eventDone c sent [.sources] s t := by
  rw [exec_event ha]; exact event_onSource hc h

/-- A message or event whose act changes one Delivery Unit and sends messages. -/
theorem exec_onUnit {c : Instr} {act : State → State} {sent : List Instr} {s : State} {p : Port} {d : DeliveryUnit}
    (ha : eventAct c = some act) (hc : s.crst = false) (h : act (s.arrive c) = ((s.arrive c).setUnit p d).send sent) :
    ∃ t, exec c s = .next t ∧ t.unit p = d ∧ otherUnits p s t ∧ eventDone c sent [.units] s t := by
  rw [exec_event ha]; exact event_onUnit hc h

/-- A message or event whose act changes one slot of the Offer List and sends messages. -/
theorem exec_onOffer {c : Instr} {act : State → State} {sent : List Instr} {s : State} {k : SlotId} {x : OfferSlot}
    (ha : eventAct c = some act) (hc : s.crst = false) (h : act (s.arrive c) = ((s.arrive c).setOffer k x).send sent) :
    ∃ t, exec c s = .next t ∧ t.offer k = x ∧ otherOffers k s t ∧ eventDone c sent [.offers] s t := by
  rw [exec_event ha]; exact event_onOffer hc h

/-- A message or event whose act changes one line and sends messages. -/
theorem exec_onLine {c : Instr} {act : State → State} {sent : List Instr} {s : State} {l : LineId} {x : Line}
    (ha : eventAct c = some act) (hc : s.crst = false) (h : act (s.arrive c) = ((s.arrive c).setLine l x).send sent) :
    ∃ t, exec c s = .next t ∧ t.line l = x ∧ otherLines l s t ∧ eventDone c sent [.lines] s t := by
  obtain ⟨ht, hd⟩ := exec_changes (sent := sent) (changed := [.lines]) ha hc (by rw [h]; simp [sameBut_iff])
    (by rw [h]; simp)
  refine ⟨_, ht, ?_, fun m hm => ?_, hd⟩ <;> rw [h]
  · simp
  · simp [State.setLine_line_ne, hm]

/-! ### The step -/

/-- Settles O1. -/
theorem stepRunsFrontCommand : Obligations.StepRunsFrontCommand := by
  unfold Obligations.StepRunsFrontCommand
  intro c rest s
  rfl

theorem step_idle {s : State} (h : s.pending = []) : step s = idleStep s := by simp [step, h]

/-- Settles O2, clause by clause of what the part does by itself. -/
theorem emptyQueueDelivers : Obligations.EmptyQueueDelivers := by
  unfold Obligations.EmptyQueueDelivers
  intro s hp
  rw [step_idle hp]
  refine ⟨fun c rest hh => ?_, fun e rest hh hl => ?_, fun m rest hh hl hm => ?_, fun hh hl hm => ?_⟩
  · simp only [idleStep, hh]
  · simp only [idleStep, hh, hl]
  · simp only [idleStep, hh, hl, hm]
  · simp only [idleStep, hh, hl, hm]

/-! ### Fresh parts -/

/-- Straps of 0 to 3 name the steering port, and the part starts STOPPED; of 4 to 7 none, and it starts RUNNING. -/
theorem steeringOf_port {ssel : BitVec 3} {p : Port} (h : ssel.toNat = p.val) :
    steeringOf ssel = some p ∧ resetRunState (steeringOf ssel) = .stopped := by
  have hp := p.isLt
  have hs : steeringOf ssel = some p := by
    rw [steeringOf, dif_pos (by omega)]
    exact congrArg some (Fin.ext h)
  exact ⟨hs, by rw [hs]; rfl⟩

theorem steeringOf_none {ssel : BitVec 3} (h : 4 ≤ ssel.toNat) :
    steeringOf ssel = none ∧ resetRunState (steeringOf ssel) = .running := by
  have hs : steeringOf ssel = none := dif_neg (by omega)
  exact ⟨hs, by rw [hs]; rfl⟩

theorem powerUpPart_port (ssel : BitVec 3) (lin : BitVec 32) (crst : Bool) (prst : PortSet) (s : State) (p : Port) :
    (powerUpPart ssel lin crst prst s).port p = { powerUpPort (portIn p prst) with frames := (s.port p).frames } := by
  rw [powerUpPart, freshPart_port]
  rfl

theorem powerUpPart_unit (ssel : BitVec 3) (lin : BitVec 32) (crst : Bool) (prst : PortSet) (s : State) (p : Port) :
    (powerUpPart ssel lin crst prst s).unit p = powerUpUnit :=
  congrArg Prod.snd (powerUpPart_desk ssel lin crst prst s p)

theorem powerUpPart_line (ssel : BitVec 3) (lin : BitVec 32) (crst : Bool) (prst : PortSet) (s : State) (l : LineId) :
    (powerUpPart ssel lin crst prst s).line l = powerUpLine (lin.getLsbD l.val) := by
  simp [powerUpPart, freshPart, State.line]

theorem powerUpPart_offer (ssel : BitVec 3) (lin : BitVec 32) (crst : Bool) (prst : PortSet) (s : State) (k : SlotId) :
    (powerUpPart ssel lin crst prst s).offer k = .free := by
  simp [powerUpPart, freshPart, State.offer]

theorem chipResetPart_port (ssel : BitVec 3) (s : State) (p : Port) : (chipResetPart ssel s).port p =
    { powerUpPort (s.port p).inReset with frames := (s.port p).frames, csIgnored := (s.port p).csIgnored } := by
  rw [chipResetPart, freshPart_port]

theorem chipResetPart_unit (ssel : BitVec 3) (s : State) (p : Port) : (chipResetPart ssel s).unit p = powerUpUnit :=
  congrArg Prod.snd (chipResetPart_desk ssel s p)

theorem chipResetPart_line (ssel : BitVec 3) (s : State) (l : LineId) : (chipResetPart ssel s).line l =
    lineAfterChipReset (s.pins.lin.getLsbD l.val) (s.src (sourceOfLine l)) := by
  simp [chipResetPart, freshPart, State.line]

theorem chipResetPart_offer (ssel : BitVec 3) (s : State) (k : SlotId) : (chipResetPart ssel s).offer k = .free := by
  simp [chipResetPart, freshPart, State.offer]

/-- Settles O9, record by record of the part as power-up leaves it. -/
theorem powerUpValues : Obligations.PowerUpValues := by
  unfold Obligations.PowerUpValues
  intro ssel lin crst prst s
  refine ⟨powerUpPart ssel lin crst prst s, exec_powerUp ssel lin crst prst s, rfl, rfl, rfl, rfl, rfl,
    fun p hp => steeringOf_port hp, fun hs => steeringOf_none hs, fun l => powerUpPart_line ssel lin crst prst s l,
    fun i => ?_, rfl, fun k => powerUpPart_offer ssel lin crst prst s k, rfl, fun p => ?_, rfl, rfl⟩
  · rw [powerUpPart_src]
    by_cases h : i.val < 32
    · simp [freshSource, powerUpRouting, h, lineRouting]
    · simp [freshSource, powerUpRouting, h, softRouting]
  · rw [powerUpPart_unit, powerUpPart_port]
    exact ⟨rfl, rfl, rfl, rfl, rfl, rfl, rfl, rfl, slot_powerUpUnit, rfl, rfl, rfl, rfl, rfl, rfl, rfl⟩

theorem reset_src : ∀ i : SourceId, State.reset.src i = freshSource (powerUpRouting i) 0 0 := by decide

/-- The reset state is what power-up with its pins leaves of it. -/
theorem powerUpPart_reset : powerUpPart 0#3 0#32 false 0#4 State.reset = State.reset := by
  have hsources : (powerUpPart 0#3 0#32 false 0#4 State.reset).sources = State.reset.sources := by
    refine Vector.ext fun n hn => ?_
    have hs : (powerUpPart 0#3 0#32 false 0#4 State.reset).sources[n] = freshSource (powerUpRouting ⟨n, hn⟩)
      (State.reset.src ⟨n, hn⟩).nextRef (State.reset.src ⟨n, hn⟩).nextRequest := powerUpPart_src _ _ _ _ _ ⟨n, hn⟩
    have hr : State.reset.sources[n] = freshSource (powerUpRouting ⟨n, hn⟩) 0 0 := reset_src ⟨n, hn⟩
    rw [hs, hr, reset_src]
    rfl
  have hlines : (powerUpPart 0#3 0#32 false 0#4 State.reset).lines = State.reset.lines := by
    refine Vector.ext fun n hn => ?_
    simp [powerUpPart, freshPart, State.reset]
  have hports : (powerUpPart 0#3 0#32 false 0#4 State.reset).ports = State.reset.ports := by decide
  have heta : powerUpPart 0#3 0#32 false 0#4 State.reset =
      { State.reset with
        sources := (powerUpPart 0#3 0#32 false 0#4 State.reset).sources
        lines := (powerUpPart 0#3 0#32 false 0#4 State.reset).lines
        ports := (powerUpPart 0#3 0#32 false 0#4 State.reset).ports } := rfl
  rw [heta, hsources, hlines, hports]

/-- Settles O56, from what power-up leaves: the reset state is such a part. -/
theorem resetKeepsLaws : Obligations.ResetKeepsLaws := by
  unfold Obligations.ResetKeepsLaws
  have hdesk (p : Port) : desk State.reset p = (.detached, powerUpUnit) := by
    rw [← powerUpPart_reset, powerUpPart_desk]
  have hunit (p : Port) : State.reset.unit p = powerUpUnit := congrArg Prod.snd (hdesk p)
  have hstate (p : Port) : (State.reset.port p).pstate = .detached := congrArg Prod.fst (hdesk p)
  have htable := powerUpPart_tableLaw 0#3 0#32 false 0#4 State.reset
  rw [powerUpPart_reset] at htable
  obtain ⟨hsources, hpool⟩ := tableLaw_iff.1 htable
  refine ⟨⟨attnLaw_of_detached rfl hstate, fun p => ?_, fun p => ?_, fun p _ => ?_, fun k o hk => ?_, hsources, hpool,
    fun i hl => ?_⟩, by rw [exec_powerUp, powerUpPart_reset]⟩
  · rw [hunit]
    simp [queueLaw, powerUpUnit]
  · rw [hunit]
    unfold sequenceLaw
    decide
  · rw [hunit]
    exact ⟨rfl, rfl, rfl, rfl, fun k r => by simp [slot_powerUpUnit], fun c hc => absurd hc (by simp [powerUpUnit])⟩
  · rw [← powerUpPart_reset, powerUpPart_offer] at hk
    cases hk
  · rw [← powerUpPart_reset, powerUpPart_src] at hl
    cases hl

/-- With nothing on its way before, the occurrences of the asserted lines are all that is on its way (R39). -/
theorem chipReset_sent {s : State} (h : s.inFlight = []) : (s.send (chipResetOccurrences s)).inFlight =
    ((List.finRange 32).filter fun l => ((s.send (chipResetOccurrences s)).line l).image &&
      lineAsserted (s.send (chipResetOccurrences s)) l).map .occurrenceReport := by
  rw [State.send_inFlight, h]
  rfl

/-- Settles O11, record by record of the part as chip reset ends. -/
theorem chipResetEnds : Obligations.ChipResetEnds := by
  unfold Obligations.ChipResetEnds
  intro ssel s hc
  refine ⟨_, exec_crstRelease ssel hc, rfl, rfl, rfl, rfl, rfl, fun p hp => steeringOf_port hp, fun hs => steeringOf_none hs,
    fun i => ?_, fun l => ?_, rfl, fun k => ?_, rfl, fun p => ?_, fun p => ?_, rfl, ?_⟩
  · rw [State.send_src, chipResetPart_src, sourceAfterChipReset]
    cases hl : (s.src i).lock with
    | true => cases he : (s.src i).enable <;> simp [freshSource]
    | false => simp [freshSource]
  · rw [State.send_line, chipResetPart_line]
    rfl
  · rw [State.send_offer, chipResetPart_offer]
  · rw [State.send_unit, chipResetPart_unit]
  · rw [State.send_port, chipResetPart_port]
    exact ⟨rfl, rfl, rfl, rfl, rfl⟩
  · exact chipReset_sent rfl

/-! ### Chip reset holds the part -/

/-- While CRST is asserted every ATTN is released. -/
theorem judgeAttn_held {s : State} (hc : s.crst = true) (ha : s.attn = 0#4) : judgeAttn s = s := by
  have hnone : portsWhere (attnCondition s) = 0#4 :=
    (portSet_empty_iff _).2 fun p => by simp [portIn_portsWhere, attnCondition, hc]
  have hj : judgeAttn s = { s with attn := portsWhere (attnCondition s) } := rfl
  rw [hj, hnone, ← ha]

/-- A command row under CRST is no frame. -/
theorem frameStep_held {c : Instr} {p : Port} {a : Access} {body : Body} {s : State} (hc : s.crst = true)
    (hr : s.released = false) (ha : s.attn = 0#4) : frameStep c p a body s = .next s := by
  rw [frameStep, takeCommand_ignored (by simp [takesFrames, hc]) hr, judgeAttn_held hc ha]

/-- Settles O10, by the kind of row: messages and events do not act, a command row is no frame, and the pins' rows that are
left have no effect. -/
theorem chipResetHoldsThePart : Obligations.ChipResetHoldsThePart := by
  unfold Obligations.ChipResetHoldsThePart
  constructor
  · intro s hc
    have hexec : exec .crstAssert s = .next (judgeAttn
        { s with
          crst := true, time := 0#32, inFlight := [], handed := [],
          lines := s.lines.map fun x => { x with timer := none },
          ports := s.ports.map abandonFrame }) := by
      simp only [exec, execCrstAssert, hc, Bool.false_eq_true, if_false]
    refine ⟨_, hexec, rfl, rfl, rfl, ?_, rfl, rfl, fun l => ?_, fun p => ?_, by simp [sameBut_iff]⟩
    · exact (portSet_empty_iff _).2 fun p => by rw [judgeAttn_attn, portIn_portsWhere]; simp [attnCondition]
    · simp [State.line]
    · simp [State.port, abandonFrame]
  · intro c s hc hr ha hacts
    cases he : eventAct c with
    | some act => rw [exec_event he, eventStep_held _ _ _ hc]
    | none =>
      cases hf : framePort c with
      | some p =>
        cases hw : c.wellFormed with
        | true =>
          obtain ⟨a, body, -, hexec⟩ := exec_frame hf hw
          rw [hexec, frameStep_held hc hr ha]
        | false =>
          cases c <;> try (first | (cases hf; done) | cases hw)
          case badCommand q code =>
            have hn : (argCount code).isNone = false := hw
            simp [exec, execBadCommand, hn]
      | none =>
        cases c <;> try (first | (cases he; done) | (cases hf; done) | cases hacts)
        case crstAssert.refl => simp [exec, execCrstAssert, hc]
        case frameError.refl p code args check => simp [exec, execFrameError, takesFrames, hc]
        case timeBaseTick.refl => simp [exec, execTimeBaseTick, hc]

/-! ### The port reset -/

theorem dropCommands_port (p : Port) (s : State) : (dropCommands p s).port p =
    { abandonFrame (s.port p) with inReset := true, csIgnored := false } := State.setPort_port_same _ _ _

theorem dropCommands_port_ne {p q : Port} (s : State) (h : q ≠ p) : (dropCommands p s).port q = s.port q :=
  State.setPort_port_ne _ _ _ _ h

theorem dropCommands_pstate (p : Port) (s : State) : ((dropCommands p s).port p).pstate = (s.port p).pstate := by
  rw [dropCommands_port]; rfl

theorem dropCommands_unit (p q : Port) (s : State) : (dropCommands p s).unit q = s.unit q := rfl

theorem resetPort_port (p : Port) (s : State) : (resetPort p s).port p =
    { abandonFrame (s.port p) with inReset := true, csIgnored := false, pstate := .detached, store := none, tag := 0#16 } := by
  obtain ⟨-, hp, -, -⟩ := leaveSession_frame p .detached (dropCommands p s)
  rw [resetPort_eq, restoreSettings, State.setPort_port_same, hp, dropCommands_port]

theorem resetPort_unit (p : Port) (s : State) : (resetPort p s).unit p =
    resetSettings (if (s.port p).pstate = .attached then unitAfterHandback (s.unit p) else s.unit p) := by
  rw [resetPort_eq, restoreSettings, State.setPort_unit, State.setUnit_unit_same]
  congr 1
  simp only [leaveSession, dropCommands_pstate]
  split
  · simp [handback, dropCommands_unit]
  · simp [dropCommands_unit]

theorem resetPort_inFlight (p : Port) (s : State) : (resetPort p s).inFlight =
    s.inFlight ++ if (s.port p).pstate = .attached then handbackMessages s.time p (s.unit p) else [] := by
  simp only [resetPort_eq, restoreSettings, leaveSession, dropCommands_pstate]
  split
  · simp only [handback, State.setPort_inFlight, State.setUnit_inFlight, State.send_inFlight, State.setPort_unit,
      dropCommands_unit]
    rfl
  · simp [dropCommands]

theorem resetPort_others (p : Port) (s : State) : otherPorts p s (resetPort p s) ∧ otherUnits p s (resetPort p s) := by
  obtain ⟨-, -, hports, hunits⟩ := leaveSession_frame p .detached (dropCommands p s)
  rw [resetPort_eq]
  constructor
  · intro q hq
    rw [restoreSettings, State.setPort_port_ne _ _ _ _ hq, State.setUnit_port, hports q hq, dropCommands_port_ne s hq]
  · intro q hq
    rw [restoreSettings, State.setPort_unit, State.setUnit_unit_ne _ _ _ _ hq, hunits q hq, dropCommands_unit]

theorem resetPort_handed (p : Port) (s : State) :
    (resetPort p s).handed = s.handed.filter fun c => framePort c ≠ some p := by
  obtain ⟨hframe, -⟩ := leaveSession_frame p .detached (dropCommands p s)
  obtain ⟨hhanded, -⟩ := hframe .waiting (by simp)
  rw [resetPort_eq, restoreSettings, State.setPort_handed, State.setUnit_handed, hhanded]
  refine List.filter_congr fun c _ => ?_
  by_cases h : framePort c = some p <;> simp [h]

/-- Settles O12, from what the four steps of R136 leave. -/
theorem portReset : Obligations.PortReset := by
  unfold Obligations.PortReset
  constructor
  · intro p s hc
    have hexec : exec (.pnrstAssert p) s = .next (judgeAttn (resetPort p s)) := by
      simp [exec, execPnrstAssert, hc]
    obtain ⟨hports, hunits⟩ := resetPort_others p s
    refine ⟨_, hexec, ?_, hports, hunits, ?_⟩
    · rw [judgeAttn_port, resetPort_port]; rfl
    rw [judgeAttn_unit, resetPort_unit, judgeAttn_inFlight, resetPort_inFlight]
    refine ⟨rfl, rfl, rfl, rfl, ?_, fun ha => ?_, fun ha => ?_, judgeAttn_attnLaw _, resetPort_handed p s, ?_⟩
    · split <;> rfl
    · rw [if_pos ha, if_pos ha]
      refine ⟨rfl, rfl, rfl, rfl, fun k => ?_, rfl, rfl⟩
      exact slot_unitAfterHandback (s.unit p) k
    · rw [if_neg ha, if_neg ha, List.append_nil]
      exact ⟨rfl, rfl⟩
    · exact sameBut_trans (resetPort_frame p s) (l₂ := [.attn]) (by simp [sameBut_iff]) (by simp) (by simp)
  · intro p cs s hr
    refine ⟨_, by simp only [exec, execPnrstRelease, hr, if_true]; rfl, by simp, fun hc => ?_, fun q hq => ?_,
      by simp [sameBut_iff]⟩
    · simp [takesFrames, hc]
    · rw [State.setPort_port_ne _ _ _ _ hq]

/-! ### The lines -/

/-- A line's place in a word of the lines. -/
theorem lineBit (l m : LineId) : (1#32 <<< l.val).getLsbD m.val = decide (m = l) := by
  have hm := m.isLt
  simp only [BitVec.getLsbD_shiftLeft, BitVec.getLsbD_one, Fin.ext_iff]
  by_cases h : m.val = l.val
  · simp [h]
  · simp [h]; omega

/-- What a pin of the line inputs reads after one is set. -/
theorem setPin_bit (l m : LineId) (high : Bool) (s : State) :
    (setPin l high s).pins.lin.getLsbD m.val = if m = l then high else s.pins.lin.getLsbD m.val := by
  have hbit := lineBit l m
  have hm := m.isLt
  cases high with
  | true =>
    simp only [setPin, if_true, BitVec.getLsbD_or, hbit]
    by_cases h : m = l <;> simp [h]
  | false =>
    simp only [setPin, Bool.false_eq_true, if_false, BitVec.getLsbD_and, BitVec.getLsbD_not, hbit]
    by_cases h : m = l <;> simp [h, hm]

/-- What a change of a raw level comes to for a line whose settle time is given (R30, R31, R33). -/
theorem changeRaw_eq {l : LineId} {high : Bool} {trigger : Trigger} {settle : Fin 16} {s : State}
    (hne : (s.line l).raw ≠ high) (hk : (s.src (sourceOfLine l)).routing.kind = .line trigger settle) :
    changeRaw l high s =
      if (s.line l).timer ≠ none then s.setLine l { s.line l with raw := high, timer := none }
      else if settle = 0 then
        (s.setLine l { s.line l with raw := high, settled := high, timer := none }).send
          (if (s.line l).image && edgeMatches trigger high then [.occurrenceReport l] else [])
      else s.setLine l { s.line l with raw := high, timer := some (s.time + BitVec.ofNat 32 (2 * settle.val)) } := by
  have hsettle (x : Line) : lineSettle (s.setLine l x) l = some settle := by simp [lineSettle, hk]
  simp only [changeRaw, hne, if_false, hsettle]
  cases ht : (s.line l).timer with
  | some d => simp
  | none =>
    simp only [ne_eq, not_true_eq_false, if_false]
    split
    · rw [acceptLevel, settledEdge_eq (trigger := trigger) (settle := settle) (by simpa using hk)]
      simp
    · simp [after]

/-- Settles O13, case by case of the timer and the settle time. -/
theorem rawLevelChanges : Obligations.RawLevelChanges := by
  unfold Obligations.RawLevelChanges
  intro l high trigger settle s hc hne hk
  have hexec : exec (.rawLevelChange l high) s = .next (judgeAttn (changeRaw l high (setPin l high s))) := by
    simp [exec, execRawLevelChange, hc]
  have hframe := changeRaw_frame l high (setPin l high s)
  obtain ⟨hpins, hcrst, -⟩ := hframe .pins (by simp)
  have hall : sameBut [.pins, .lines, .messages, .attn] s (judgeAttn (changeRaw l high (setPin l high s))) :=
    sameBut_trans (l₁ := [.pins]) (l₂ := [.lines, .messages, .attn]) (t := setPin l high s) (by simp [sameBut_iff, setPin])
      (sameBut_trans hframe (l₂ := [.attn]) (by simp [sameBut_iff]) (by simp) (by simp)) (by simp) (by simp)
  have heq := changeRaw_eq (s := setPin l high s) (l := l) (high := high) (trigger := trigger) (settle := settle) hne hk
  refine ⟨_, hexec, fun m hm => ?_, ?_, ?_, fun m => ?_, fun ht => ?_, fun ht h0 => ?_, fun ht h0 => ?_,
    judgeAttn_attnLaw _, hall⟩
  · rw [judgeAttn_line, heq]
    split
    · rw [State.setLine_line_ne _ _ _ _ hm]; rfl
    · split
      · rw [State.send_line, State.setLine_line_ne _ _ _ _ hm]; rfl
      · rw [State.setLine_line_ne _ _ _ _ hm]; rfl
  · rw [judgeAttn_pins, hpins]; rfl
  · rw [judgeAttn_crst, hcrst]; rfl
  · rw [judgeAttn_pins, hpins]; exact setPin_bit l m high s
  · have ht' : ((setPin l high s).line l).timer ≠ none := ht
    rw [judgeAttn_line, judgeAttn_inFlight, heq, if_pos ht']
    exact ⟨State.setLine_line_same _ _ _, rfl⟩
  · have ht' : ((setPin l high s).line l).timer = none := ht
    rw [judgeAttn_line, judgeAttn_inFlight, heq, if_neg (not_not.2 ht'), if_pos h0]
    refine ⟨?_, rfl⟩
    rw [State.send_line, State.setLine_line_same, ← ht']
    rfl
  · have ht' : ((setPin l high s).line l).timer = none := ht
    rw [judgeAttn_line, judgeAttn_inFlight, heq, if_neg (not_not.2 ht'), if_neg h0]
    exact ⟨State.setLine_line_same _ _ _, rfl⟩

/-- Settles O14, by what the expiry finds in the timer. -/
theorem settleExpiry : Obligations.SettleExpiry := by
  unfold Obligations.SettleExpiry
  constructor
  · intro l deadline trigger settle s hc ht hr hk
    refine exec_onLine rfl hc ?_
    simp only [expireSettle, State.arrive_line, ht, State.arrive_time, hr, if_true, acceptLevel]
    rw [settledEdge_eq (trigger := trigger) (settle := settle) (by simpa using hk)]
    simp
  · intro l s hc h
    refine exec_ignored rfl hc ?_
    rcases h with ht | ⟨d, ht, hr⟩
    · simp [expireSettle, ht]
    · simp [expireSettle, ht, hr]

/-- Settles O15, from what a report of a line's assertion sends. -/
theorem lineReports : Obligations.LineReports := by
  unfold Obligations.LineReports
  refine ⟨fun l s hc => ⟨?_, ?_, ?_⟩, fun rising => ?_, fun l trigger settle s hk => ?_⟩
  · refine exec_onLine rfl hc ?_
    rw [reportIfAsserted_eq, lineAsserted_congr (s := s) (by rfl) (by simp)]
    rfl
  · exact exec_onLine (sent := []) rfl hc (by simp)
  · refine exec_sends rfl hc ?_
    rw [reportIfAsserted_eq, lineAsserted_congr (s := s) (by rfl) (by simp)]
  · cases rising <;> decide
  · cases trigger <;> simp [lineAsserted, lineTrigger, hk, assertedLevel]

/-! ### The Time Base -/

/-- What is due is found in ascending order of the slots. -/
theorem due_ascending {n : Nat} (test : Fin n → Bool) : ((List.finRange n).filter test).Pairwise (· < ·) :=
  (List.pairwise_lt_finRange n).filter test

theorem offerDeadline_iff {x : OfferSlot} {d : Time} :
    offerDeadline x = some d ↔ ∃ o, x = .opened o ∧ o.deadline = d := by
  cases x <;> simp [offerDeadline]

theorem slotDeadline_iff {x : ServiceSlot} {d : Time} :
    slotDeadline x = some d ↔ ∃ r, x = .held r ∧ r.deadline = some d := by
  cases x <;> simp [slotDeadline]

/-- The service slots due at a time: those of the lower port first. -/
def dueSlots (now : Time) (s : State) : List (Port × ServiceSlotId) :=
  allPorts.flatMap fun p => ((List.finRange 4).filter fun k => slotDeadline ((s.unit p).slot k) == some now).map (p, ·)

theorem dueServices_eq (now : Time) (s : State) :
    dueServices now s = (dueSlots now s).map fun x => .serviceDeadlineExpiry x.1 x.2 := by
  simp [dueServices, dueSlots, List.map_flatMap, Function.comp_def]

theorem dueSlots_mem {now : Time} {s : State} {p : Port} {k : ServiceSlotId} :
    (p, k) ∈ dueSlots now s ↔ ∃ r, (s.unit p).slot k = .held r ∧ r.deadline = some now := by
  rw [← slotDeadline_iff]
  simp [dueSlots, mem_allPorts]

theorem dueSlots_ascending (now : Time) (s : State) :
    (dueSlots now s).Pairwise fun x y => x.1 < y.1 ∨ x.1 = y.1 ∧ x.2 < y.2 := by
  rw [dueSlots, List.pairwise_flatMap]
  constructor
  · intro p _
    rw [List.pairwise_map]
    exact (due_ascending _).imp fun h => .inr ⟨rfl, h⟩
  · refine List.Pairwise.imp (R := (· < ·)) (fun {p q} hpq x hx y hy => ?_) (by decide)
    obtain ⟨k, -, rfl⟩ := List.mem_map.1 hx
    obtain ⟨j, -, rfl⟩ := List.mem_map.1 hy
    exact .inl hpq

/-- Settles O55, from the three lists of what falls due. -/
theorem timeBaseTicks : Obligations.TimeBaseTicks := by
  unfold Obligations.TimeBaseTicks
  intro s hc
  have hexec : exec .timeBaseTick s = .next (({ s with time := s.time + 1#32 } : State).send
      (dueSettles (s.time + 1#32) s ++ dueOffers (s.time + 1#32) s ++ dueServices (s.time + 1#32) s)) := by
    simp only [exec, execTimeBaseTick, hc, Bool.false_eq_true, if_false]
  refine ⟨_, hexec, rfl, by simp, ⟨(List.finRange 32).filter fun l => (s.line l).timer == some (s.time + 1#32),
    (List.finRange 16).filter fun k => offerDeadline (s.offer k) == some (s.time + 1#32),
    dueSlots (s.time + 1#32) s, ?_, due_ascending _, fun l => ?_, due_ascending _, fun k => ?_,
    dueSlots_ascending _ s, fun p k => dueSlots_mem⟩, by simp [sameBut_iff]⟩
  · rw [State.send_inFlight, dueServices_eq]
    rfl
  · simp
  · rw [← offerDeadline_iff]
    simp

end Sys2Proof.Machine
end

section
/-! PROOFS. The frames: their coding (R181), the commands that wait (R174), and the link byte by byte (R172 to R177). -/

namespace Sys2Proof.Machine

/-! ### Coding -/

/-- An unrecognised code without arguments is BAD_COMMAND (R177). -/
theorem decodeNoArgs_unknown {p : Port} {code : Byte} (h : argCount code = none) :
    decodeNoArgs p code = some (.badCommand p code) := by
  unfold decodeNoArgs
  split
  case h_15 => simp [h]
  all_goals
    rename_i hcode
    exact absurd h (by simp [argCount, hcode])

/-- Settles O4, command by command. -/
theorem framesReadBack : Obligations.FramesReadBack := by
  unfold Obligations.FramesReadBack
  intro c p code args hw hf he
  cases c <;> (first | (cases hf; done) | cases hf)
  case attach tag | setLimit ms => cases he; simp [decodeFrame, decodeTwoArgs, bytes2, wordOf_bytes, argCount]
  case raiseWord source word => cases he; simp [decodeFrame, bytes2, wordOf_bytes, argCount]
  case badCommand =>
    cases he
    have hn : (argCount code).isNone = true := hw
    rw [Option.isNone_iff_eq_none] at hn
    exact ⟨decodeNoArgs_unknown hn, by simp [hn]⟩
  all_goals cases he; exact ⟨rfl, rfl⟩

/-! ### Waiting -/

/-- Settles O7, from what a taken command does while its port is not free. -/
theorem commandWaitsForPrevious : Obligations.CommandWaitsForPrevious := by
  unfold Obligations.CommandWaitsForPrevious
  intro c p s hf hw ht hr hfree
  obtain ⟨a, body, -, hexec⟩ := exec_frame hf hw
  refine ⟨_, by rw [hexec, frameStep, takeCommand_waits ht hr hfree], ?_, fun q hq => ?_, judgeAttn_attnLaw _,
    by simp [sameBut_iff]⟩
  · simp [awaitedFrame]
  · rw [judgeAttn_port, State.setPort_port_ne _ _ _ _ hq]

/-! ### The link, row by row and byte by byte -/

theorem exec_frameError {p : Port} {code : Byte} {args : List Byte} {check : Byte} {s : State} (ht : takesFrames s p = true)
    (hargs : args.length = (argCount code).getD 0) (hcheck : check ≠ checkByte (code :: args)) :
    exec (.frameError p code args check) s = .next (takeFrameError p code args check s) := by
  simp only [exec, execFrameError]
  rw [if_pos ⟨ht, hargs, hcheck⟩]

/-- The codes of each number of argument bytes (R181). -/
theorem argCount_codes : ∀ code : Byte,
    argCount code = none ∨
    argCount code = some 0 ∧ code ∈ [0x01#8, 0x03#8, 0x04#8, 0x10#8, 0x11#8, 0x13#8, 0x14#8, 0x18#8, 0x40#8, 0x41#8, 0x44#8,
      0x50#8, 0x51#8, 0x53#8] ∨
    argCount code = some 1 ∧ code ∈ [0x12#8, 0x15#8, 0x16#8, 0x30#8, 0x32#8, 0x33#8, 0x34#8, 0x35#8, 0x36#8, 0x42#8, 0x45#8,
      0x52#8] ∨
    argCount code = some 2 ∧ code ∈ [0x02#8, 0x17#8, 0x43#8] ∨ argCount code = some 3 ∧ code = 0x20#8 ∨
    argCount code = some 7 ∧ code = 0x31#8 := by decide

theorem bytes2_wordOf (a b : Byte) : bytes2 (wordOf a b) = [a, b] := by
  have hhi : (wordOf a b).extractLsb' 8 8 = a := by
    apply BitVec.eq_of_getLsbD_eq
    intro i hi
    have h : (wordOf a b).getLsbD (8 + i) = if 8 + i < 8 then b.getLsbD (8 + i) else a.getLsbD (8 + i - 8) :=
      BitVec.getLsbD_append
    simp [h, hi]
  have hlo : (wordOf a b).extractLsb' 0 8 = b := by
    apply BitVec.eq_of_getLsbD_eq
    intro i hi
    have h : (wordOf a b).getLsbD (0 + i) = if 0 + i < 8 then b.getLsbD (0 + i) else a.getLsbD (0 + i - 8) :=
      BitVec.getLsbD_append
    rw [Nat.zero_add] at h
    simp [h, hi]
  rw [bytes2, hhi, hlo]

/-- What a frame of the bytes given carries: a command of port `p` with this code and these arguments. -/
def carries (p : Port) (code : Byte) (args : List Byte) (c : Instr) : Prop :=
  decodeFrame p code args = some c ∧ framePort c = some p ∧ c.wellFormed = true ∧ encodeFrame c = some (code, args)

/-- A complete command phase whose check byte matches is a command of that code and those arguments. -/
theorem decodeFrame_encodes (p : Port) {code : Byte} {args : List Byte} (h : args.length = (argCount code).getD 0) :
    ∃ c, carries p code args c := by
  rcases argCount_codes code with hn | ⟨hn, hcode⟩ | ⟨hn, hcode⟩ | ⟨hn, hcode⟩ | ⟨hn, rfl⟩ | ⟨hn, rfl⟩ <;> rw [hn] at h
  · obtain rfl := List.length_eq_zero_iff.1 h
    exact ⟨_, decodeNoArgs_unknown hn, rfl, by simp [Instr.wellFormed, hn], rfl⟩
  · obtain rfl := List.length_eq_zero_iff.1 h
    simp only [List.mem_cons, List.not_mem_nil, or_false] at hcode
    rcases hcode with rfl | rfl | rfl | rfl | rfl | rfl | rfl | rfl | rfl | rfl | rfl | rfl | rfl | rfl <;>
      exact ⟨_, rfl, rfl, rfl, rfl⟩
  · obtain ⟨a, rfl⟩ := List.length_eq_one_iff.1 h
    simp only [List.mem_cons, List.not_mem_nil, or_false] at hcode
    rcases hcode with rfl | rfl | rfl | rfl | rfl | rfl | rfl | rfl | rfl | rfl | rfl | rfl <;>
      exact ⟨_, rfl, rfl, rfl, rfl⟩
  · obtain ⟨a, b, rfl⟩ := List.length_eq_two.1 h
    simp only [List.mem_cons, List.not_mem_nil, or_false] at hcode
    rcases hcode with rfl | rfl | rfl
    · exact ⟨.attach p (wordOf a b), rfl, rfl, rfl, by rw [encodeFrame, bytes2_wordOf]⟩
    · exact ⟨.setLimit p (wordOf a b), rfl, rfl, rfl, by rw [encodeFrame, bytes2_wordOf]⟩
    · exact ⟨.seize p a b, rfl, rfl, rfl, rfl⟩
  · obtain ⟨a, b, c, rfl⟩ := List.length_eq_three.1 h
    exact ⟨.raiseWord p a (wordOf b c), rfl, rfl, rfl, by rw [encodeFrame, bytes2_wordOf]⟩
  · match args, h with
    | [a, b0, b1, b2, b3, b4, b5], _ => exact ⟨.writeRoute p a ⟨b0, b1, b2, b3, b4, b5⟩, rfl, rfl, rfl, rfl⟩

/-- The bytes received make no row while one is still to come. -/
theorem completedRow_none {p : Port} {code : Byte} {rest : List Byte} (h : rest.length ≤ (argCount code).getD 0) :
    completedRow p (code :: rest) = none := by
  simp [completedRow, List.drop_eq_nil_of_le h]

/-- The last byte of the command phase makes the row. -/
theorem completedRow_last {p : Port} {code b : Byte} {args : List Byte} (h : args.length = (argCount code).getD 0) :
    completedRow p (code :: args ++ [b]) = rowOfPhase p code args b := by
  simp [completedRow, ← h]

theorem clockByte_completes {p : Port} {b : Byte} {s : State} {received : List Byte} {c : Instr}
    (ht : takesFrames s p = true) (hf : (s.port p).frame = some (.assembling received))
    (hc : completedRow p (received ++ [b]) = some c) : linkStep (.byte p b) s = exec c s := by
  simp only [linkStep, ht, if_true, clockByte, hf, hc]

theorem clockByte_joins {p : Port} {b : Byte} {s : State} {received : List Byte}
    (ht : takesFrames s p = true) (hf : (s.port p).frame = some (.assembling received))
    (hc : completedRow p (received ++ [b]) = none) :
    linkStep (.byte p b) s = .next (setFrame p (some (.assembling (received ++ [b]))) s) := by
  simp only [linkStep, ht, if_true, clockByte, hf, hc]

theorem clockByte_answering {p : Port} {b : Byte} {s : State} {f : Frame} (ht : takesFrames s p = true)
    (hf : (s.port p).frame = some (.answering f)) :
    linkStep (.byte p b) s = .next (setFrame p (some (.answering { f with clocked := f.clocked + 1 })) s) := by
  simp only [linkStep, ht, if_true, clockByte, hf]

/-- Another frame in progress is all that has changed. -/
theorem setFrame_only (p : Port) (f : LinkFrame) (s : State) :
    (setFrame p (some f) s).port p = { s.port p with frame := some f } ∧ otherPorts p s (setFrame p (some f) s) ∧
    sameBut [.ports] s (setFrame p (some f) s) :=
  ⟨State.setPort_port_same _ _ _, fun _ hq => State.setPort_port_ne _ _ _ _ hq, by simp [sameBut_iff, setFrame]⟩

/-- Settles O8, row by row, and byte by byte of the frame in progress. -/
theorem linkRows : Obligations.LinkRows := by
  unfold Obligations.LinkRows
  refine ⟨fun p code args check s ht hargs hcheck => ?_, fun p code s hr hn => ?_, fun p s hr => ?_, fun p b s => ?_⟩
  · refine ⟨_, exec_frameError ht hargs hcheck, State.setPort_port_same _ _ _,
      fun q hq => State.setPort_port_ne _ _ _ _ hq, by simp [sameBut_iff, takeFrameError]⟩
  · rw [exec_command (body := badCommandBody) rfl rfl rfl (by simp [Instr.wellFormed, hn])]
    exact frameStep_unchanged hr (portCheck_any _) rfl
  · refine ⟨_, by simp only [exec, execEarlyChipSelectRelease, hr, Bool.false_eq_true, if_false],
      State.setPort_port_same _ _ _, fun q hq => State.setPort_port_ne _ _ _ _ hq, by simp [sameBut_iff]⟩
  · simp only []
    refine ⟨rfl, fun ht => ?_, fun ht => ⟨⟨_, by simp only [linkStep, ht, if_true], setFrame_only p _ s⟩, fun hf => ?_,
      fun received hf => ⟨?_, fun code rest hrest hlen => ?_, fun code args hargs hlen => ?_⟩, fun f hf => ?_⟩⟩
    · simp [linkStep, sdoByte, ht]
    · simp [linkStep, sdoByte, ht, clockByte, hf]
    · simp [sdoByte, ht, hf, drivenByte]
    · refine ⟨_, ?_, setFrame_only p _ s⟩
      exact clockByte_joins ht hf (by rw [hrest, completedRow_none hlen])
    · subst hargs
      have hrow : completedRow p (code :: args ++ [b]) = rowOfPhase p code args b := completedRow_last hlen
      constructor
      · intro hb
        obtain ⟨c, hc, hport, hwf, henc⟩ := decodeFrame_encodes p hlen
        exact ⟨c, hport, hwf, henc, clockByte_completes ht hf (by rw [hrow, rowOfPhase, if_pos hb, hc])⟩
      · intro hb
        exact clockByte_completes ht hf (by rw [hrow, rowOfPhase, if_neg hb])
    · refine ⟨⟨_, clockByte_answering ht hf, setFrame_only p _ s⟩, fun h0 => ?_, fun n hn hclock => ?_, fun hlast => ?_⟩
      · simp [sdoByte, ht, hf, drivenByte, h0]
      · simp [sdoByte, ht, hf, drivenByte, hclock, hn]
      · have h0 : f.clocked ≠ 0 := by omega
        have hout : f.response.length ≤ f.clocked - 1 := by omega
        simp [sdoByte, ht, hf, drivenByte, h0, List.getElem?_eq_none hout]

end Sys2Proof.Machine
end

section
/-! PROOFS. Occurrences and formation: the counting of an occurrence (R8), the attempts (R10 to R14) and their rounds (R127,
R158). -/

namespace Sys2Proof.Machine

theorem portSet_ext : ∀ S T : PortSet, (∀ p, portIn p S = portIn p T) → S = T := by decide

/-- Two sets that the same ports are in are one set. -/
theorem portSet_eq {S T : PortSet} {P : Port → Prop} (hS : ∀ p, portIn p S = true ↔ P p)
    (hT : ∀ p, portIn p T = true ↔ P p) : S = T :=
  portSet_ext S T fun p => Bool.eq_iff_iff.2 ((hS p).trans (hT p).symm)

/-! ### Counting -/

theorem counted_eq {now : Time} {r : Source} (h : r.pending ≤ 255) : counted now r = countedAt now r := by
  unfold counted countedAt
  split
  · next hlt =>
    have hne : r.pending ≠ 255 := by omega
    have hmin : min 255 (r.pending + 1) = r.pending + 1 := by omega
    simp [hne, hmin]
  · next hfull =>
    have he : r.pending = 255 := by omega
    simp [he]

/-- An attempt that fails leaves the source WAITING: the part is STOPPED, or a request stands (R10). -/
theorem waitAndAttempt_blocked {i : SourceId} {s : State} (h : s.runState = .stopped ∨ (s.src i).slotRequest ≠ none) :
    waitAndAttempt i s = s.setSrc i { s.src i with state := .waiting } := by
  rcases h with h | h
  · exact waitAndAttempt_stopped h
  · simp [waitAndAttempt, attempt, h]

theorem occurrence_ignored {i : SourceId} {s : State} (h : (s.src i).state = .off ∨ (s.src i).state = .draining) :
    occurrence i s = s := by
  rcases h with h | h <;> simp [occurrence, h]

theorem occurrence_active {i : SourceId} {s : State} (h : (s.src i).state = .active) :
    occurrence i s = s.setSrc i (counted s.time (s.src i)) := by simp [occurrence, h]

theorem occurrence_attempted {i : SourceId} {s : State} (h : (s.src i).state = .idle ∨ (s.src i).state = .waiting) :
    occurrence i s = waitAndAttempt i (s.setSrc i (counted s.time (s.src i))) := by
  rcases h with h | h <;> simp [occurrence, h]

/-- Settles O16, by the state of the source. -/
theorem occurrenceCounted : Obligations.OccurrenceCounted := by
  unfold Obligations.OccurrenceCounted
  intro l s hc
  refine ⟨fun hs => ?_, fun hp hs => ?_⟩
  · exact exec_ignored rfl hc (occurrence_ignored hs)
  · have hcount := counted_eq (now := s.time) hp
    rcases hs with ha | ⟨hw, hblocked⟩
    · refine exec_onSource (sent := []) rfl hc ?_
      rw [State.send_nil, occurrence_active (s := s.arrive _) ha]
      simp only [State.arrive_src, State.arrive_time, hcount, countedAt, ha, if_true]
    · refine exec_onSource (sent := []) rfl hc ?_
      have hna : (s.src (sourceOfLine l)).state ≠ .active := by rcases hw with h | h <;> simp [h]
      rw [State.send_nil, occurrence_attempted (s := s.arrive _) hw, waitAndAttempt_blocked]
      · simp only [State.arrive_src, State.arrive_time, hcount, State.setSrc_setSrc, State.setSrc_src_same, countedAt, hna,
          if_false]
      · simpa [hcount, countedAt] using hblocked

/-! ### Formation -/

/-- An occurrence of a line source in IDLE or WAITING, with the part RUNNING and no request standing: the attempt is made on
the record with the occurrence counted. -/
theorem occurrence_forms {l : LineId} {trigger : Trigger} {settle : Fin 16} {s : State} (hc : s.crst = false)
    (hrun : s.runState = .running)
    (hs : (s.src (sourceOfLine l)).state = .idle ∨ (s.src (sourceOfLine l)).state = .waiting)
    (hq : (s.src (sourceOfLine l)).slotRequest = none) (hp : (s.src (sourceOfLine l)).pending ≤ 255)
    (hk : (s.src (sourceOfLine l)).routing.kind = .line trigger settle) :
    ∃ t sent, exec (.occurrenceReport l) s = .next t ∧ otherSources (sourceOfLine l) s t ∧
      eventDone (.occurrenceReport l) sent [.sources] s t ∧
      attemptResult (seen s) (sourceOfLine l) { countedAt s.time (s.src (sourceOfLine l)) with state := .waiting }
        (t.src (sourceOfLine l)) sent := by
  let i := sourceOfLine l
  let u := (s.arrive (.occurrenceReport l)).setSrc i { countedAt s.time (s.src i) with state := .waiting }
  have hu : u.src i = { countedAt s.time (s.src i) with state := .waiting } := State.setSrc_src_same _ _ _
  have hcount : pendingCount (u.src i) ≠ 0 := by
    rw [hu]
    simp only [pendingCount, countedAt, hk, i]
    omega
  have hnobatch : ∀ depth raisers, (u.src i).routing.kind = .soft depth raisers → (u.src i).batch = none := by
    intro d q h
    rw [hu] at h
    exact absurd (hk.symm.trans h) (by simp)
  obtain ⟨sent, hon, hresult⟩ := attempt_spec (i := i) (s := u) (by rw [hu]) hrun (by rw [hu]; exact hq) hcount hnobatch
  have hact : occurrence i (s.arrive (.occurrenceReport l)) = attempt i u := by
    rw [occurrence_attempted (s := s.arrive _) hs, State.arrive_src, State.arrive_time, counted_eq hp, waitAndAttempt,
      State.setSrc_src_same,
      State.setSrc_setSrc]
  obtain ⟨t, ht, hsrc, hothers, hdone⟩ := exec_onSource (s := s) (c := .occurrenceReport l) (i := i)
    (r := (attempt i u).src i) (sent := sent) rfl hc (by
      rw [hact]
      exact hon.trans (by rw [State.setSrc_setSrc]))
  have hseen : seen u = seen s := seen_congr rfl fun q => by
    exact List.mem_erase_of_ne (by simp)
  rw [hseen, hu] at hresult
  exact ⟨t, sent, ht, hothers, hdone, hsrc ▸ hresult⟩

/-- What was formed from a record does not depend on its state before. -/
theorem formedFrom_waiting {r r' : Source} {form : Form} {ports : PortSet}
    (h : formedFrom { r with state := .waiting } form ports r') : formedFrom r form ports r' := h

/-- The last resort when the fallback is seen. -/
theorem lastResort_fallback {sees : Port → Prop} {i : SourceId} {r r' : Source} {sent : List Instr} {f : Port}
    (h : lastResort sees i r r' sent) (hf : r.routing.fallback = some f) (hs : sees f) :
    formedFrom r .fallback (onePort f) r' ∧ sent = [.placement f (formedPlacement i r .fallback)] := h.1 f hf hs

/-- Settles O17, from what an attempt makes of a DIRECT and of a BROADCAST record. -/
theorem directAndBroadcastFormation : Obligations.DirectAndBroadcastFormation := by
  unfold Obligations.DirectAndBroadcastFormation
  intro l trigger settle s i r r₁ waits hc hrun hs hq hp hk
  obtain ⟨t, sent, ht, hothers, hdone, hresult⟩ := occurrence_forms hc hrun hs hq hp hk
  refine ⟨fun q hmode htarget => ?_, fun hmode => ?_⟩
  · simp only [attemptResult, countedAt] at hresult
    rw [hmode] at hresult
    obtain ⟨hdirect, hlast⟩ := hresult q htarget
    refine ⟨fun hsee => ?_, fun f hnot hf hsee => ?_, fun hnot hnone => ?_⟩
    · obtain ⟨hform, rfl⟩ := hdirect hsee
      exact ⟨t, ht, formedFrom_waiting hform, hothers, hdone⟩
    · obtain ⟨hform, rfl⟩ := lastResort_fallback (hlast hnot) hf hsee
      exact ⟨t, ht, formedFrom_waiting hform, hothers, hdone⟩
    · obtain ⟨hrec, rfl⟩ := (hlast hnot).2 hnone
      exact ⟨t, ht, hrec, hothers, hdone⟩
  · simp only [attemptResult, countedAt] at hresult
    rw [hmode] at hresult
    obtain ⟨seenPorts, hports, hforms, hwaits⟩ := hresult
    refine ⟨fun ports hin hne => ?_, fun hnot => ?_⟩
    · obtain rfl := portSet_eq hports hin
      obtain ⟨hform, rfl⟩ := hforms hne
      exact ⟨t, ht, formedFrom_waiting hform, hothers, hdone⟩
    · have hempty : seenPorts = 0#4 := (portSet_empty_iff _).2 fun q =>
        Bool.eq_false_iff.2 fun h => hnot q ((hports q).1 h).1 ((hports q).1 h).2
      obtain ⟨hrec, rfl⟩ := hwaits hempty
      exact ⟨t, ht, hrec, hothers, hdone⟩

/-- Settles O18, from what an attempt makes of a SHARED record. -/
theorem sharedFormation : Obligations.SharedFormation := by
  unfold Obligations.SharedFormation
  intro l trigger settle s i r r₁ hc hrun hs hq hp hk hmode
  obtain ⟨t, sent, ht, hothers, hdone, hresult⟩ := occurrence_forms hc hrun hs hq hp hk
  simp only [attemptResult, countedAt] at hresult
  rw [hmode] at hresult
  obtain ⟨hasks, hlast⟩ := hresult
  refine ⟨fun stamp htarget hstamp => ?_, fun hnot => ⟨fun f hf hsee => ?_, fun hnone => ?_⟩⟩
  · obtain ⟨hrec, rfl⟩ := hasks htarget
    refine ⟨t, ht, hrec, hothers, ?_⟩
    have hfields : (pendingFields r₁).stamp = stamp := by
      have hk₁ : r₁.routing.kind = .line trigger settle := hk
      have hf₁ : r₁.firstStamp = some stamp := hstamp
      simp only [pendingFields, hk₁, hf₁, Option.getD_some]
    rw [← hfields]
    exact hdone
  · obtain ⟨hform, rfl⟩ := lastResort_fallback (hlast hnot) hf hsee
    exact ⟨t, ht, formedFrom_waiting hform, hothers, hdone⟩
  · obtain ⟨hrec, rfl⟩ := (hlast hnot).2 hnone
    exact ⟨t, ht, hrec, hothers, hdone⟩

/-! ### Rounds of attempts -/

/-- R10's conditions for an attempt on a source that a round's test picks. -/
def attemptDue (test : Source → Bool) (s : State) (i : SourceId) : Prop :=
  test (s.src i) = true ∧ (s.src i).state = .waiting ∧ s.runState = .running ∧ (s.src i).slotRequest = none ∧
  pendingCount (s.src i) ≠ 0

/-- What an attempt can come to: nothing, a batch placed, or a slot request. -/
theorem attempt_cases (i : SourceId) (s : State) :
    attempt i s = s ∨ (∃ form kind ports, attempt i s = placeBatch i form kind ports s) ∨
      ∃ stamp, attempt i s = requestSlot i .first stamp s := by
  have fallback : attemptFallback i s = s ∨ ∃ form kind ports, attemptFallback i s = placeBatch i form kind ports s := by
    unfold attemptFallback
    split
    · exact .inr ⟨_, _, _, rfl⟩
    · exact .inl rfl
  have placed {t : State} (h : t = s ∨ ∃ form kind ports, t = placeBatch i form kind ports s) :
      t = s ∨ (∃ form kind ports, t = placeBatch i form kind ports s) ∨ ∃ stamp, t = requestSlot i .first stamp s :=
    h.imp_right .inl
  simp only [attempt]
  split
  · split
    · simp only [attemptDirect]
      split
      · split
        · exact .inr (.inl ⟨_, _, _, rfl⟩)
        · exact placed fallback
      · exact placed fallback
    · simp only [attemptBroadcast]
      split
      · exact .inl rfl
      · exact .inr (.inl ⟨_, _, _, rfl⟩)
    · simp only [attemptShared]
      split
      · exact placed fallback
      · exact .inr (.inr ⟨_, rfl⟩)
  · exact .inl rfl

/-- No attempt reports an ATTACH. -/
theorem attempt_quiet (i : SourceId) (s : State) (q : Port) :
    .attachReport q ∈ (attempt i s).inFlight ↔ .attachReport q ∈ s.inFlight := by
  rcases attempt_cases i s with h | ⟨form, kind, ports, h⟩ | ⟨stamp, h⟩ <;> rw [h]
  · simp [placeBatch, placements]
  · simp [requestSlot]

/-- An attempt changes the record of its source, its list apart, and sends messages. -/
theorem attempt_record (i : SourceId) (s : State) : ∃ r sent,
    attempt i s = (s.setSrc i r).send sent ∧ r.words = (s.src i).words := by
  rcases attempt_cases i s with h | ⟨form, kind, ports, h⟩ | ⟨stamp, h⟩ <;> rw [h]
  · exact ⟨s.src i, [], by rw [State.setSrc_self, State.send_nil], rfl⟩
  · exact ⟨_, _, rfl, rfl⟩
  · exact ⟨_, _, rfl, rfl⟩

/-- The state after a round has come to source `i`. -/
def roundStep (test : Source → Bool) (s : State) (i : SourceId) : State := if test (s.src i) then attempt i s else s

/-- What one source's turn in a round comes to. -/
theorem roundStep_spec (test : Source → Bool) {s : State} {i : SourceId}
    (hb : (s.src i).state = .waiting → (s.src i).batch = none) :
    ∃ sent, onRecord i s (roundStep test s i) sent ∧
      (attemptDue test s i → attemptResult (seen s) i (s.src i) ((roundStep test s i).src i) sent) ∧
      (¬ attemptDue test s i → (roundStep test s i).src i = s.src i ∧ sent = []) ∧
      seen (roundStep test s i) = seen s := by
  by_cases hdue : attemptDue test s i
  · obtain ⟨htest, hw, hrun, hq, hp⟩ := id hdue
    have hstep : roundStep test s i = attempt i s := if_pos htest
    obtain ⟨sent, hon, hresult⟩ := attempt_spec hw hrun hq hp fun _ _ _ => hb hw
    refine ⟨sent, by rwa [hstep], fun _ => by rwa [hstep], fun hn => absurd hdue hn, ?_⟩
    rw [hstep]
    exact seen_congr ((attempt_op i s).1 .ports (by simp)) (attempt_quiet i s)
  · have hstep : roundStep test s i = s := by
      unfold roundStep
      split
      · next htest => exact if_neg fun ⟨h₁, h₂, h₃, h₄⟩ => hdue ⟨htest, h₁, h₂, h₃, h₄⟩
      · rfl
    rw [hstep]
    exact ⟨[], onRecord_refl i s, fun h => absurd h hdue, fun _ => ⟨rfl, rfl⟩, rfl⟩

theorem onRecord_others {i : SourceId} {s t : State} {sent : List Instr} (h : onRecord i s t sent) :
    (∀ j, j ≠ i → t.src j = s.src j) ∧ sameBut [.sources, .messages] s t ∧ t.inFlight = s.inFlight ++ sent := by
  rw [h]
  exact ⟨fun j hj => State.setSrc_src_ne _ _ _ _ hj, by simp [sameBut_iff], rfl⟩

/-- What a round over distinct sources comes to: each source that is due has its attempt, and its messages stand in the
order of the round. -/
theorem round_spec (test : Source → Bool) (l : List SourceId) (hl : l.Nodup) : ∀ {s : State},
    (∀ i ∈ l, (s.src i).state = .waiting → (s.src i).batch = none) → ∃ sentBy : SourceId → List Instr,
      sameBut [.sources, .messages] s (l.foldl (roundStep test) s) ∧
      (l.foldl (roundStep test) s).inFlight = s.inFlight ++ l.flatMap sentBy ∧
      ∀ i, (i ∈ l ∧ attemptDue test s i →
          attemptResult (seen s) i (s.src i) ((l.foldl (roundStep test) s).src i) (sentBy i)) ∧
        (¬ (i ∈ l ∧ attemptDue test s i) → (l.foldl (roundStep test) s).src i = s.src i ∧ sentBy i = []) := by
  induction l with
  | nil => exact fun _ => ⟨fun _ => [], sameBut_refl _ _, by simp, fun i => by simp⟩
  | cons a l ih =>
    intro s hb
    obtain ⟨ha, hnodup⟩ := List.nodup_cons.1 hl
    obtain ⟨sent, hon, hdue, hnot, hseen⟩ := roundStep_spec test (hb a (by simp))
    obtain ⟨hothers, hsame, hsent⟩ := onRecord_others hon
    have hne {i : SourceId} (hi : i ∈ l) : i ≠ a := fun e => ha (e ▸ hi)
    have hrun : (roundStep test s a).runState = s.runState := (hsame .control (by simp)).2.1
    have hdue' {i : SourceId} (hi : i ≠ a) : attemptDue test (roundStep test s a) i ↔ attemptDue test s i := by
      unfold attemptDue
      rw [hothers i hi, hrun]
    obtain ⟨sentBy, hsame', hsent', hrest⟩ := ih hnodup (s := roundStep test s a) fun i hi => by
      rw [hothers i (hne hi)]
      exact hb i (List.mem_cons_of_mem _ hi)
    rw [List.foldl_cons]
    refine ⟨fun i => if i = a then sent else sentBy i, sameBut_trans hsame hsame' (fun _ h => h) (fun _ h => h), ?_,
      fun i => ?_⟩
    · have hflat : (l.flatMap fun i => if i = a then sent else sentBy i) = l.flatMap sentBy :=
        List.flatMap_congr fun i hi => if_neg (hne hi)
      rw [hsent', hsent, List.flatMap_cons, hflat, if_pos rfl, List.append_assoc]
    · beta_reduce
      by_cases hi : i = a
      · subst hi
        obtain ⟨hkept, -⟩ := (hrest i).2 fun h => ha h.1
        rw [if_pos rfl, hkept]
        exact ⟨fun h => hdue h.2, fun h => hnot fun hd => h ⟨by simp, hd⟩⟩
      · rw [if_neg hi]
        obtain ⟨hresult, hkept⟩ := hrest i
        rw [hseen, hothers i hi, hdue' hi] at hresult
        rw [hothers i hi, hdue' hi] at hkept
        simpa [hi] using And.intro hresult hkept

theorem attemptWhere_eq (test : Source → Bool) (s : State) :
    attemptWhere test s = (List.finRange 48).foldl (roundStep test) s := rfl

/-- Settles O19, from what a round comes to. -/
theorem attemptRounds : Obligations.AttemptRounds := by
  unfold Obligations.AttemptRounds
  intro c s hcase hc hb
  obtain ⟨test, ha, hnamed⟩ : ∃ test, eventAct c = some (attemptWhere test) ∧ ∀ r : Source,
      test r = true ↔ r.state = .waiting ∧
        ∀ p, c = .attachReport p → portIn p r.routing.targets = true ∨ r.routing.fallback = some p := by
    rcases hcase with rfl | ⟨p, rfl⟩
    · exact ⟨_, rfl, fun r => by simp⟩
    · exact ⟨_, rfl, fun r => by simp⟩
  obtain ⟨sentBy, hsame, hsent, hrest⟩ := round_spec test (List.finRange 48) (List.nodup_finRange _)
    (s := s.arrive c) fun i _ => hb i
  rw [← attemptWhere_eq] at hsame hsent hrest
  obtain ⟨ht, hdone⟩ := exec_changes (sent := (List.finRange 48).flatMap sentBy) (changed := [.sources]) ha hc
    (fun q hq => hsame q fun h => hq (by simpa [or_comm] using h)) hsent
  have hdue (i : SourceId) : attemptDue test (s.arrive c) i ↔ (s.src i).state = .waiting ∧ s.runState = .running ∧
      (s.src i).slotRequest = none ∧ pendingCount (s.src i) ≠ 0 ∧
      ∀ p, c = .attachReport p → portIn p (s.src i).routing.targets = true ∨ (s.src i).routing.fallback = some p := by
    simp only [attemptDue, State.arrive_src, State.arrive_runState, hnamed]
    tauto
  refine ⟨_, sentBy, ht, hdone, fun hstop => ?_, fun i => ⟨fun hd => ?_, fun hd => ?_⟩⟩
  · have hkept (i : SourceId) : (attemptWhere test (s.arrive c)).src i = s.src i ∧ sentBy i = [] :=
      (hrest i).2 fun h => absurd h.2.2.2.1 (by simp [hstop])
    refine ⟨Vector.ext fun n hn => (hkept ⟨n, hn⟩).1, ?_⟩
    rw [hdone.1, List.flatMap_eq_nil_iff.2 fun i _ => (hkept i).2, List.append_nil]
  · exact (hrest i).1 ⟨List.mem_finRange i, (hdue i).2 hd⟩
  · exact (hrest i).2 fun h => hd ((hdue i).1 h.2)

end Sys2Proof.Machine
end

section
/-! PROOFS. The reports about a batch: copies, ends, returns, revocations (R16 to R24). -/

namespace Sys2Proof.Machine

/-- A message whose act changes one source record and the number of free cells, and sends messages. -/
theorem exec_onSourceCells {c : Instr} {act : State → State} {sent : List Instr} {s : State} {i : SourceId} {r : Source}
    {n : Nat} (ha : eventAct c = some act) (hc : s.crst = false)
    (h : act (s.arrive c) = ({ (s.arrive c).setSrc i r with poolFree := n } : State).send sent) :
    ∃ t, exec c s = .next t ∧ t.src i = r ∧ t.poolFree = n ∧ otherSources i s t ∧
      eventDone c sent [.sources, .pool] s t := by
  obtain ⟨ht, hd⟩ := exec_changes (sent := sent) (changed := [.sources, .pool]) ha hc (by rw [h]; simp [sameBut_iff])
    (by rw [h]; rfl)
  refine ⟨_, ht, ?_, ?_, fun j hj => ?_, hd⟩ <;> rw [h]
  · exact State.setSrc_src_same _ _ _
  · rfl
  · exact State.setSrc_src_ne _ _ _ _ hj

/-! ### Copies -/

theorem copyOf_none {s : State} {i : SourceId} {p : Port} {ref : Nat}
    (h : ∀ b, (s.src i).batch = some b → b.ref = ref → b.copy p = .noCopy) : copyOf s i p ref = .noCopy := by
  unfold copyOf
  split
  · next b hb => exact h b (batchOf_spec hb).1 (batchOf_spec hb).2
  · rfl

/-- Settles O20, by what the copy table says. -/
theorem copyReports : Obligations.CopyReports := by
  unfold Obligations.CopyReports
  intro i p ref seq s hc
  refine ⟨?_, fun hnone => ?_⟩
  · rintro b hb rfl
    refine ⟨fun hcopy => exec_onSource (sent := []) rfl hc ?_, fun hcopy => exec_onSource (sent := []) rfl hc ?_⟩
    · simp only [applyAdmitted, copyOf_named (s := s.arrive _) hb, hcopy, changeBatch_named (s := s.arrive _) hb,
        State.send_nil, State.arrive_src]
    · simp only [applyTaken, copyOf_named (s := s.arrive _) hb, hcopy, changeBatch_named (s := s.arrive _) hb,
        State.send_nil, State.arrive_src]
  · have hcopy (c : Instr) : copyOf (s.arrive c) i p ref = .noCopy := copyOf_none hnone
    refine ⟨exec_sends rfl hc ?_, exec_ignored rfl hc ?_, exec_ignored rfl hc ?_⟩
    · simp only [applyTaken, hcopy]
    · simp only [applyAdmitted, hcopy]
    · simp only [applyDone, hcopy]

/-- Settles O24, by what the copy table says. -/
theorem offerReports : Obligations.OfferReports := by
  unfold Obligations.OfferReports
  refine ⟨fun i p b s hc hb hcopy => ⟨?_, ?_⟩, fun i ref p s hc hnone => ?_⟩
  · let b' : Batch := { mapCopies (fun q c => if q = p then .inService else if c = .offered then .noCopy else c) b with
      offer := none }
    obtain ⟨t, ht, hsrc, hothers, hdone⟩ := exec_onSource (c := .claimGranted i b.ref p) (s := s) (sent := [])
      (i := i) (r := { s.src i with batch := some b' }) rfl hc (by
        simp only [applyGranted, copyOf_named (s := s.arrive _) hb, hcopy, changeBatch_named (s := s.arrive _) hb,
          State.send_nil, State.arrive_src, b'])
    exact ⟨t, b', ht, hsrc, fun q => mapCopies_copy
      (fun q c => if q = p then .inService else if c = .offered then .noCopy else c) b q, rfl, hothers, hdone⟩
  · refine exec_onSource (sent := []) rfl hc ?_
    simp only [applyLost, copyOf_named (s := s.arrive _) hb, hcopy, changeBatch_named (s := s.arrive _) hb,
      State.send_nil, State.arrive_src]
  · refine exec_sends rfl hc ?_
    simp only [applyGranted, copyOf_none (s := s.arrive _) hnone]

/-! ### The end of a batch -/

theorem tellLine_eq (i : SourceId) (m : LineId → Instr) (s : State) : tellLine i m s = s.send (toldLine i m) := by
  unfold tellLine toldLine lineOf
  by_cases h : i.val < 32 <;> simp [h]

theorem toldLine_line (l : LineId) (m : LineId → Instr) : toldLine (sourceOfLine l) m = [m l] := by
  have h : (sourceOfLine l).val < 32 := l.isLt
  exact dif_pos h

theorem toldLine_soft {i : SourceId} (m : LineId → Instr) (h : 32 ≤ i.val) : toldLine i m = [] := by
  simp [toldLine, Nat.not_lt.2 h]

/-- After a batch, with nothing pending or the part STOPPED, no other batch forms. -/
theorem afterBatch_settled {i : SourceId} {s : State} (ms : List Instr)
    (h : pendingCount (s.src i) = 0 ∨ s.runState = .stopped) :
    afterBatch i (s.send ms) =
      (s.setSrc i { s.src i with state := if pendingCount (s.src i) = 0 then .idle else .waiting }).send ms := by
  by_cases h0 : pendingCount (s.src i) = 0
  · rw [afterBatch_nothing (s := s.send ms) h0, if_pos h0]
    rfl
  · rw [afterBatch_pending (s := s.send ms) h0, waitAndAttempt_stopped (s := s.send ms) (h.resolve_left h0), if_neg h0]
    rfl

/-- The end of a line source's batch. -/
theorem batchOver_line {i : SourceId} {s : State} {trigger : Trigger} {settle : Fin 16} (o : LastOutcome)
    (ms : List Instr) (hk : (s.src i).routing.kind = .line trigger settle) (hw : (s.src i).words = [])
    (h : (s.src i).pending = 0 ∨ s.runState = .stopped) :
    afterBatch i ((endBatch i o s).send ms) =
      (s.setSrc i { s.src i with
        batch := none, lastOutcome := o, state := if (s.src i).pending = 0 then .idle else .waiting }).send ms := by
  rw [endBatch_noWord hw]
  have hp : pendingCount ((s.setSrc i { s.src i with batch := none, lastOutcome := o }).src i) = (s.src i).pending := by
    rw [State.setSrc_src_same]
    simp [pendingCount, hk]
  rw [afterBatch_settled ms (by rwa [hp]), hp, State.setSrc_src_same, State.setSrc_setSrc]

/-- The end of a soft source's batch frees its word. -/
theorem batchOver_soft {i : SourceId} {s : State} {depth : Nat} {raisers : PortSet} {w : PoolWord} {ws : List PoolWord}
    (o : LastOutcome) (ms : List Instr) (hk : (s.src i).routing.kind = .soft depth raisers)
    (hw : (s.src i).words = w :: ws) (h : ws = [] ∨ s.runState = .stopped) :
    afterBatch i ((endBatch i o s).send ms) =
      ({ s.setSrc i { s.src i with
          batch := none, lastOutcome := o, words := ws, state := if ws = [] then .idle else .waiting } with
        poolFree := s.poolFree + 1 } : State).send ms := by
  rw [endBatch_word hw]
  let u : State := { s.setSrc i { s.src i with batch := none, lastOutcome := o, words := ws } with
    poolFree := s.poolFree + 1 }
  have hu : u.src i = { s.src i with batch := none, lastOutcome := o, words := ws } := State.setSrc_src_same _ _ _
  have hp : pendingCount (u.src i) = 0 ↔ ws = [] := by
    rw [hu]
    simp [pendingCount, hk, pendingWords]
  change afterBatch i (u.send ms) = _
  rw [afterBatch_settled ms (by rwa [hp]), hu]
  simp only [hu ▸ hp]
  simp [State.setSrc, State.send, u]

theorem complete_eq (i : SourceId) (s : State) :
    complete i s = afterBatch i ((endBatch i .delivered s).send (toldLine i .completionReport)) := by
  rw [complete, tellLine_eq]

/-- A discard that has nothing to withdraw. -/
theorem discardExpired_eq {i : SourceId} {s : State} (hend : endOfWork i (s.src i) = [])
    (hq : (s.src i).slotRequest = none) : discardExpired i s = afterBatch i ((endBatch i .expired s).send []) := by
  have hself : s.setSrc i { s.src i with slotRequest := none } = s := by
    rw [show ({ s.src i with slotRequest := none } : Source) = s.src i by rw [← hq], State.setSrc_self]
  simp only [discardExpired, hend, State.send_nil, hself]

/-- A SHARED batch without an open offer has nothing that the Source Table placed. -/
theorem endOfWork_shared {i : SourceId} {r : Source} {b : Batch} (hq : r.slotRequest = none) (hb : r.batch = some b)
    (ho : b.offer = none) (hf : b.form = .shared) : endOfWork i r = [] := by
  simp [endOfWork, hq, hb, ho, copyWithdrawals, hf, placedKind]

/-! ### The check after a copy has changed -/

/-- The state with source `i`'s batch at `b'`. -/
theorem setBatch_record (i : SourceId) (b' : Batch) (s : State) :
    (setBatch i b' s).src i = { s.src i with batch := some b' } := State.setSrc_src_same _ _ _

/-- An outstanding copy keeps the batch. -/
theorem checkBatch_open {i : SourceId} {s : State} {b : Batch} {p q : Port} {c : CopyState}
    (ha : (s.src i).state = .active) (hq : q ≠ p) (ho : outstanding (b.copy q) = true) :
    checkBatch i (setBatch i (b.setCopy p c) s) = setBatch i (b.setCopy p c) s := by
  have hsome : someCopy (b.setCopy p c) outstanding = true :=
    (someCopy_iff _ _).2 ⟨q, by rw [Batch.setCopy_copy_ne _ _ _ _ hq]; exact ho⟩
  have hb : ((setBatch i (b.setCopy p c) s).src i).batch = some (b.setCopy p c) := by rw [setBatch_record]
  have hs : ((setBatch i (b.setCopy p c) s).src i).state = .active := by rw [setBatch_record]; exact ha
  rw [checkBatch_active hb hs]
  exact if_neg (by simp [completes, hsome])

/-- The last copy's end completes the batch. -/
theorem checkBatch_completed {i : SourceId} {s : State} {b : Batch} {p : Port} (ha : (s.src i).state = .active)
    (hq : (s.src i).slotRequest = none) (ho : b.offer = none)
    (hall : ∀ q, q ≠ p → b.copy q = .noCopy ∨ b.copy q = .done) :
    checkBatch i (setBatch i (b.setCopy p .done) s) = complete i (setBatch i (b.setCopy p .done) s) := by
  have hnone : someCopy (b.setCopy p .done) outstanding = false := by
    rw [someCopy_false_iff]
    intro q
    by_cases e : q = p
    · subst e; rw [Batch.setCopy_copy_same]; rfl
    · rw [Batch.setCopy_copy_ne _ _ _ _ e]
      rcases hall q e with h | h <;> rw [h] <;> rfl
  have hdone : someCopy (b.setCopy p .done) (· == .done) = true := (someCopy_iff _ _).2 ⟨p, by simp⟩
  have hb : ((setBatch i (b.setCopy p .done) s).src i).batch = some (b.setCopy p .done) := by rw [setBatch_record]
  have hs : ((setBatch i (b.setCopy p .done) s).src i).state = .active := by rw [setBatch_record]; exact ha
  rw [checkBatch_active hb hs]
  exact if_pos (by simp [completes, setBatch_record, hq, ho, hnone, hdone])

/-- The completion of a line source's batch, from the state with its last copy ended. -/
theorem completed_line {i : SourceId} {l : LineId} {s : State} {b' : Batch} {trigger : Trigger} {settle : Fin 16}
    (hi : i = sourceOfLine l) (hk : (s.src i).routing.kind = .line trigger settle) (hw : (s.src i).words = [])
    (h : (s.src i).pending = 0 ∨ s.runState = .stopped) :
    complete i (setBatch i b' s) =
      (s.setSrc i { s.src i with
        batch := none, lastOutcome := .delivered,
        state := if (s.src i).pending = 0 then .idle else .waiting }).send [.completionReport l] := by
  have hrec := setBatch_record i b' s
  rw [complete_eq, batchOver_line .delivered _ (trigger := trigger) (settle := settle) (by rw [hrec]; exact hk)
    (by rw [hrec]; exact hw) (by rw [hrec]; exact h), hrec, setBatch, State.setSrc_setSrc]
  subst hi
  rw [toldLine_line]

/-- The completion of a soft source's batch, from the state with its last copy ended. -/
theorem completed_soft {i : SourceId} {s : State} {b' : Batch} {depth : Nat} {raisers : PortSet} {w : PoolWord}
    {ws : List PoolWord} (hi : 32 ≤ i.val) (hk : (s.src i).routing.kind = .soft depth raisers)
    (hw : (s.src i).words = w :: ws) (h : ws = [] ∨ s.runState = .stopped) :
    complete i (setBatch i b' s) =
      ({ s.setSrc i { s.src i with
          batch := none, lastOutcome := .delivered, words := ws, state := if ws = [] then .idle else .waiting } with
        poolFree := s.poolFree + 1 } : State).send [] := by
  have hrec := setBatch_record i b' s
  rw [complete_eq, batchOver_soft .delivered _ (depth := depth) (raisers := raisers) (w := w) (by rw [hrec]; exact hk)
    (by rw [hrec]; exact hw) (s := setBatch i b' s) h, hrec, setBatch, State.setSrc_setSrc, toldLine_soft _ hi]
  rfl

/-! ### The end of draining -/

/-- The last copy in service of a DRAINING line source has ended. -/
theorem drained_line {l : LineId} {s : State} {b : Batch} {p : Port} {c : CopyState}
    (hd : (s.src (sourceOfLine l)).state = .draining) (hw : (s.src (sourceOfLine l)).words = [])
    (hc : c ≠ .inService) (hother : ∀ q, q ≠ p → b.copy q ≠ .inService) :
    checkBatch (sourceOfLine l) (setBatch (sourceOfLine l) (b.setCopy p c) s) =
      (s.setSrc (sourceOfLine l) { s.src (sourceOfLine l) with
        batch := none, lastOutcome := if someCopy (b.setCopy p c) (· == .done) then .delivered else .revoked,
        state := .off }).send
        (if someCopy (b.setCopy p c) (· == .done) then [.completionReport l] else []) := by
  have hrec := setBatch_record (sourceOfLine l) (b.setCopy p c) s
  have hnone : someCopy (b.setCopy p c) (· == .inService) = false := by
    rw [someCopy_false_iff]
    intro q
    rw [Batch.setCopy_copy]
    split
    · simpa using hc
    · next e => simpa using hother q e
  rw [checkBatch_draining (by rw [hrec]) (by rw [hrec]; exact hd), hnone]
  simp only [Bool.false_eq_true, if_false, endDraining]
  rw [endBatch_noWord (by rw [hrec]; exact hw), hrec, setBatch, State.setSrc_setSrc]
  cases someCopy (b.setCopy p c) (· == .done) with
  | true => simp [tellLine_eq, toldLine_line, State.setSrc_send]
  | false => simp

theorem applyDone_named {i : SourceId} {p : Port} {b : Batch} (s : State) (hb : (s.src i).batch = some b)
    (hcopy : b.copy p = .inService) : applyDone i p b.ref s = checkBatch i (setBatch i (b.setCopy p .done) s) := by
  simp only [applyDone, copyOf_named hb, hcopy, changeBatch_named hb]
  rfl

/-- Settles O21, by what the other copies are when one ends. -/
theorem doneReportEndsBatch : Obligations.DoneReportEndsBatch := by
  unfold Obligations.DoneReportEndsBatch
  refine ⟨fun i p b s hc hb hcopy ha => ⟨fun q hq ho => ?_, fun hall hoff hreq => ⟨?_, ?_⟩⟩, ?_⟩
  · refine exec_onSource (sent := []) rfl hc ?_
    rw [applyDone_named (s.arrive _) hb hcopy, checkBatch_open (s := s.arrive _) ha hq ho, State.send_nil]
    rfl
  · intro l trigger settle hi hk hw h
    refine exec_onSource rfl hc ?_
    rw [applyDone_named (s.arrive _) hb hcopy, checkBatch_completed (s := s.arrive _) ha hreq hoff hall,
      completed_line (s := s.arrive _) hi hk hw h]
    rfl
  · intro depth raisers w ws hi hk hw h
    refine exec_onSourceCells rfl hc ?_
    rw [applyDone_named (s.arrive _) hb hcopy, checkBatch_completed (s := s.arrive _) ha hreq hoff hall,
      completed_soft (s := s.arrive _) hi hk hw h]
    rfl
  · intro l p kind b s i hc hb hcopy hd hother hw
    refine ⟨exec_onSource rfl hc ?_, fun hnot => exec_onSource rfl hc ?_⟩
    · have hdone : someCopy (b.setCopy p .done) (· == .done) = true := (someCopy_iff _ _).2 ⟨p, by simp⟩
      rw [applyDone_named (s.arrive _) hb hcopy, drained_line (s := s.arrive _) hd hw (by simp) hother, hdone]
      rfl
    · have hdone : someCopy (b.setCopy p .noCopy) (· == .done) = false := by
        rw [someCopy_false_iff]
        intro q
        rw [Batch.setCopy_copy]
        split
        · rfl
        · next e => simpa using hnot q e
      have hrevoked : applyRevoked i p b.ref (s.arrive (.revokedReport i p b.ref kind)) =
          checkBatch i (setBatch i (b.setCopy p .noCopy) (s.arrive (.revokedReport i p b.ref kind))) := by
        simp only [applyRevoked, batchOf_named (s := s.arrive _) hb, hcopy, if_true, State.arrive_src, hd]
      rw [hrevoked, drained_line (s := s.arrive _) hd hw (by simp) hother, hdone]
      rfl

/-! ### Returns -/

/-- A line source's batch returns to pending while the part is STOPPED (R23). -/
theorem returnToPending_line {i : SourceId} {s : State} {b : Batch} {trigger : Trigger} {settle : Fin 16}
    (o : LastOutcome) (hk : (s.src i).routing.kind = .line trigger settle) (hstop : s.runState = .stopped) :
    returnToPending i o b s = s.setSrc i { s.src i with
      batch := none, lastOutcome := o, state := .waiting,
      pending := min 255 (b.count + (s.src i).pending)
      overrun := decide (255 < b.count + (s.src i).pending) || b.overrun || (s.src i).overrun
      firstStamp := some b.stamp } := by
  rw [returnToPending, waitAndAttempt_stopped (s := s.setSrc i _) hstop, State.setSrc_src_same, State.setSrc_setSrc]
  simp only [merged, hk]

theorem applyWithdrawal_returns {i : SourceId} {p : Port} {b : Batch} (s : State) (hb : (s.src i).batch = some b)
    (ha : (s.src i).state = .active) (hcopy : b.copy p = .owed ∨ b.copy p = .queued)
    (hform : b.form = .direct ∨ b.form = .fallback) :
    applyWithdrawal i p b.ref s = returnToPending i .returned (b.setCopy p .noCopy) s := by
  rcases hform with hform | hform <;> simp only [applyWithdrawal, batchOf_named hb, ha, hcopy, and_self, if_true, hform]

theorem applyWithdrawal_broadcast {i : SourceId} {p : Port} {b : Batch} (s : State) (hb : (s.src i).batch = some b)
    (ha : (s.src i).state = .active) (hcopy : b.copy p = .owed ∨ b.copy p = .queued) (hform : b.form = .broadcast) :
    applyWithdrawal i p b.ref s = checkBatch i (setBatch i (b.setCopy p .done) s) := by
  simp only [applyWithdrawal, batchOf_named hb, ha, hcopy, and_self, if_true, hform]

theorem applyWithdrawal_shared {i : SourceId} {p : Port} {b : Batch} (s : State) (hb : (s.src i).batch = some b)
    (hform : b.form = .shared) : applyWithdrawal i p b.ref s = s := by
  simp only [applyWithdrawal, batchOf_named hb, hform, ite_self]

/-- Settles O22, by the form of the batch. -/
theorem withdrawalReturns : Obligations.WithdrawalReturns := by
  unfold Obligations.WithdrawalReturns
  intro i p b s hc hb ha
  refine ⟨fun hform hcopy hstop trigger settle hk => exec_onSource (sent := []) rfl hc ?_,
    fun hform hcopy q hq ho => exec_onSource (sent := []) rfl hc ?_, fun hform => exec_ignored rfl hc ?_⟩
  · rw [applyWithdrawal_returns (s.arrive _) hb ha hcopy hform, returnToPending_line (s := s.arrive _) .returned hk hstop,
      State.send_nil]
    rfl
  · rw [applyWithdrawal_broadcast (s.arrive _) hb ha hcopy hform, checkBatch_open (s := s.arrive _) ha hq ho,
      State.send_nil]
    rfl
  · exact applyWithdrawal_shared (s.arrive _) hb hform

/-! ### Revocations -/

theorem applyRevoked_returns {i : SourceId} {p : Port} {b : Batch} (s : State) (hb : (s.src i).batch = some b)
    (ha : (s.src i).state = .active) (hcopy : b.copy p = .inService) (hform : b.form = .direct ∨ b.form = .fallback) :
    applyRevoked i p b.ref s = returnToPending i .revoked (b.setCopy p .noCopy) s := by
  rcases hform with hform | hform <;> simp only [applyRevoked, batchOf_named hb, ha, hcopy, if_true, hform]

theorem applyRevoked_broadcast {i : SourceId} {p : Port} {b : Batch} (s : State) (hb : (s.src i).batch = some b)
    (ha : (s.src i).state = .active) (hcopy : b.copy p = .inService) (hform : b.form = .broadcast) :
    applyRevoked i p b.ref s = checkBatch i (setBatch i (b.setCopy p .done) s) := by
  simp only [applyRevoked, batchOf_named hb, ha, hcopy, if_true, hform]

theorem applyRevoked_shared {i : SourceId} {p : Port} {b : Batch} (s : State) (hb : (s.src i).batch = some b)
    (ha : (s.src i).state = .active) (hcopy : b.copy p = .inService) (hform : b.form = .shared) :
    applyRevoked i p b.ref s = revokeShared i p b s := by
  simp only [applyRevoked, batchOf_named hb, ha, hcopy, if_true, hform]

/-- The candidates of a re-offer: the ATTACHED targets that are not excluded (R102). -/
theorem candidatesOf_mem (s : State) (targets excluded : PortSet) (q : Port) :
    portIn q (candidatesOf s targets excluded) = true ↔
    portIn q targets = true ∧ (s.port q).pstate = .attached ∧ portIn q excluded = false := by
  rw [portIn_candidatesOf, Bool.and_eq_true, Bool.and_eq_true, attached_iff, Bool.not_eq_true', and_assoc]

theorem candidatesOf_none {s : State} {targets excluded : PortSet}
    (h : ∀ q, portIn q targets = true → (s.port q).pstate = .attached → portIn q excluded = true) :
    candidatesOf s targets excluded = 0#4 := by
  refine (portSet_empty_iff _).2 fun q => Bool.eq_false_iff.2 fun hq => ?_
  obtain ⟨ht, ha, he⟩ := (candidatesOf_mem s targets excluded q).1 hq
  rw [h q ht ha] at he
  cases he

/-- A batch that becomes FALLBACK (R20): its record and the placement sent. -/
theorem convertToFallback_spec (i : SourceId) (b : Batch) (f : Port) (s : State) : ∃ b',
    convertToFallback i b f s =
      (s.setSrc i { s.src i with batch := some b' }).send [.placement f (fallbackPlacement i b)] ∧ convertedTo f b b' := by
  refine ⟨mapCopies (fun p c => if p = f then .owed else if c = .offered then .noCopy else c)
    { b with form := .fallback, excluded := 0#4, offer := none }, ?_, rfl, fun q => mapCopies_copy
      (fun p c => if p = f then .owed else if c = .offered then .noCopy else c) _ q⟩
  simp only [convertToFallback, placements, portsOf_onePort]
  rfl

/-- The notice of a discard goes to an ATTACHED owner alone (R21). -/
theorem expiredByTable_spec (i : SourceId) (s : State) : expiredNotice s i (expiredByTable i s) := by
  unfold expiredNotice expiredByTable
  cases ho : (s.src i).owner with
  | none => simp
  | some o => by_cases ha : (s.port o).pstate = .attached <;> simp [attached, ha]

theorem expiredNotice_congr {i : SourceId} {s t : State} {sent : List Instr} (ho : (t.src i).owner = (s.src i).owner)
    (hp : t.ports = s.ports) (h : expiredNotice t i sent) : expiredNotice s i sent := by
  simpa only [expiredNotice, State.port, ho, hp] using h

theorem noReOffer_fallback {i : SourceId} {b : Batch} {f : Port} {s : State}
    (hf : (s.src i).routing.fallback = some f) (ha : (s.port f).pstate = .attached) (he : portIn f b.excluded = false) :
    noReOffer i b s = convertToFallback i b f s := by
  simp only [noReOffer, usableFallback_some.2 ⟨hf, ha, he⟩]

theorem noReOffer_none {i : SourceId} {b : Batch} {s : State}
    (h : ∀ f, (s.src i).routing.fallback = some f → (s.port f).pstate = .attached → portIn f b.excluded = true) :
    noReOffer i b s = (discardExpired i s).send (expiredByTable i s) := by
  simp only [noReOffer, usableFallback_none.2 h]

/-- A SHARED batch of a line source discarded, with nothing of it left to withdraw. -/
theorem discardExpired_line {i : SourceId} {s : State} {b : Batch} {trigger : Trigger} {settle : Fin 16}
    (hb : (s.src i).batch = some b) (hform : b.form = .shared) (ho : b.offer = none) (hq : (s.src i).slotRequest = none)
    (hk : (s.src i).routing.kind = .line trigger settle) (hw : (s.src i).words = [])
    (h : (s.src i).pending = 0 ∨ s.runState = .stopped) :
    discardExpired i s = s.setSrc i { s.src i with
      batch := none, lastOutcome := .expired, state := if (s.src i).pending = 0 then .idle else .waiting } := by
  rw [discardExpired_eq (endOfWork_shared hq hb ho hform) hq, batchOver_line .expired [] hk hw h, State.send_nil]

/-- A SHARED batch of a soft source discarded, with nothing of it left to withdraw. -/
theorem discardExpired_soft {i : SourceId} {s : State} {b : Batch} {depth : Nat} {raisers : PortSet} {w : PoolWord}
    {ws : List PoolWord} (hb : (s.src i).batch = some b) (hform : b.form = .shared) (ho : b.offer = none)
    (hq : (s.src i).slotRequest = none) (hk : (s.src i).routing.kind = .soft depth raisers)
    (hw : (s.src i).words = w :: ws) (h : ws = [] ∨ s.runState = .stopped) :
    discardExpired i s = { s.setSrc i { s.src i with
        batch := none, lastOutcome := .expired, words := ws, state := if ws = [] then .idle else .waiting } with
      poolFree := s.poolFree + 1 } := by
  rw [discardExpired_eq (endOfWork_shared hq hb ho hform) hq, batchOver_soft .expired [] hk hw h, State.send_nil]

/-- The batch of a SHARED source whose copy at a port has been revoked (R21). -/
def revokedBatch (p : Port) (b : Batch) : Batch := { b.setCopy p .noCopy with excluded := withPort b.excluded p }

theorem requestSlot_setBatch (i : SourceId) (kind : RequestKind) (stamp : Time) (b' : Batch) (s : State) :
    requestSlot i kind stamp (setBatch i b' s) =
      (s.setSrc i { s.src i with
        batch := some b', slotRequest := some (s.src i).nextRequest, nextRequest := (s.src i).nextRequest + 1 }).send
        [.slotRequest i kind (s.src i).nextRequest (s.src i).routing.priority stamp] := by
  simp only [requestSlot]
  rw [setBatch_record, setBatch, State.setSrc_setSrc]

theorem revokeShared_eq (i : SourceId) (p : Port) (b : Batch) (s : State) : revokeShared i p b s =
    if candidatesOf s (s.src i).routing.targets (withPort b.excluded p) = 0#4
    then noReOffer i (revokedBatch p b) (setBatch i (revokedBatch p b) s)
    else requestSlot i (.reOffer b.ref) b.stamp (setBatch i (revokedBatch p b) s) := by
  simp only [revokeShared, setBatch_record]
  rfl

/-- Settles O23, by the form of the batch, and for a SHARED one by what is left of its targets and its fallback. -/
theorem revokedReports : Obligations.RevokedReports := by
  unfold Obligations.RevokedReports
  intro i p kind b s c r hc hb hcopy ha
  refine ⟨?_, fun hform hstop trigger settle hk => ?_,
    fun hform => ⟨fun q hq ho => ?_, fun hall ho hq l trigger settle hi hk hw h => ?_⟩⟩
  · intro hform excluded
    have hact : applyRevoked i p b.ref (s.arrive c) = revokeShared i p b (s.arrive c) :=
      applyRevoked_shared (s.arrive c) hb ha hcopy hform
    refine ⟨fun q ht hat he => ?_, fun hnone => ?_⟩
    · have hne : candidatesOf (s.arrive c) r.routing.targets excluded ≠ 0#4 := fun h0 => by
        have hq := (portSet_empty_iff _).1 h0 q
        rw [(candidatesOf_mem (s.arrive c) _ _ q).2 ⟨ht, hat, he⟩] at hq
        cases hq
      refine exec_onSource rfl hc ?_
      have hact' := hact.trans ((revokeShared_eq i p b (s.arrive c)).trans (if_neg hne))
      rw [hact', requestSlot_setBatch]
      rfl
    · have h0 : candidatesOf (s.arrive c) r.routing.targets excluded = 0#4 := candidatesOf_none hnone
      have hrec := setBatch_record i (revokedBatch p b) (s.arrive c)
      have hact' : applyRevoked i p b.ref (s.arrive c) =
          noReOffer i (revokedBatch p b) (setBatch i (revokedBatch p b) (s.arrive c)) := by
        rw [hact, revokeShared_eq]
        exact if_pos h0
      refine ⟨fun f hf hat he => ?_, fun hnof ho hq => ?_⟩
      · obtain ⟨b', hconv, hto⟩ :=
          convertToFallback_spec i (revokedBatch p b) f (setBatch i (revokedBatch p b) (s.arrive c))
        obtain ⟨t, ht, hsrc, hothers, hdone⟩ := exec_onSource (s := s) (c := c) (i := i)
          (r := { r with batch := some b' }) (sent := [.placement f (fallbackPlacement i b)]) rfl hc (by
            rw [hact', noReOffer_fallback (s := setBatch i (revokedBatch p b) (s.arrive c)) (by rw [hrec]; exact hf) hat he,
              hconv, hrec, setBatch, State.setSrc_setSrc]
            rfl)
        exact ⟨t, b', ht, hsrc, hto, hothers, hdone⟩
      · have howner : ((setBatch i (revokedBatch p b) (s.arrive c)).src i).owner = (s.src i).owner := by rw [hrec]; rfl
        have hnotice : expiredNotice s i (expiredByTable i (setBatch i (revokedBatch p b) (s.arrive c))) :=
          expiredNotice_congr howner rfl (expiredByTable_spec i _)
        have hnone' := noReOffer_none (i := i) (b := revokedBatch p b) (s := setBatch i (revokedBatch p b) (s.arrive c))
          (by rw [hrec]; exact hnof)
        refine ⟨fun trigger settle hk hw h => ?_, fun depth raisers w ws hk hw h => ?_⟩
        · obtain ⟨t, ht, hsrc, hothers, hdone⟩ := exec_onSource (s := s) (c := c) (i := i) rfl hc (by
            rw [hact', hnone', discardExpired_line (b := revokedBatch p b)
              (s := setBatch i (revokedBatch p b) (s.arrive c)) (by rw [hrec]) hform ho (by rw [hrec]; exact hq)
              (by rw [hrec]; exact hk) (by rw [hrec]; exact hw) (by rw [hrec]; exact h), hrec, setBatch,
              State.setSrc_setSrc])
          exact ⟨t, _, ht, hsrc, hothers, hnotice, hdone⟩
        · obtain ⟨t, ht, hsrc, hpool, hothers, hdone⟩ := exec_onSourceCells (s := s) (c := c) (i := i) rfl hc (by
            rw [hact', hnone', discardExpired_soft (b := revokedBatch p b)
              (s := setBatch i (revokedBatch p b) (s.arrive c)) (by rw [hrec]) hform ho (by rw [hrec]; exact hq)
              (by rw [hrec]; exact hk) (by rw [hrec]; exact hw) h, hrec, setBatch, State.setSrc_setSrc])
          exact ⟨t, _, ht, hsrc, hpool, hothers, hnotice, hdone⟩
  · refine exec_onSource (sent := []) rfl hc ?_
    rw [applyRevoked_returns (s.arrive _) hb ha hcopy hform, returnToPending_line (s := s.arrive _) .revoked hk hstop,
      State.send_nil]
    rfl
  · refine exec_onSource (sent := []) rfl hc ?_
    rw [applyRevoked_broadcast (s.arrive _) hb ha hcopy hform, checkBatch_open (s := s.arrive _) ha hq ho,
      State.send_nil]
    rfl
  · refine exec_onSource rfl hc ?_
    rw [applyRevoked_broadcast (s.arrive _) hb ha hcopy hform, checkBatch_completed (s := s.arrive _) ha hq ho hall,
      completed_line (s := s.arrive _) hi hk hw h]
    rfl

end Sys2Proof.Machine
end

section
/-! PROOFS. Expiry reports (R20, R24, R101) and slot grants (R11, R15, R21, R48, R102) at the Source Table. -/

namespace Sys2Proof.Machine

/-- The batch of an offer that has expired: its offer and its OFFERED copies are gone (R20). -/
def withoutOffer (b : Batch) : Batch := { mapCopies (fun _ c => if c = .offered then .noCopy else c) b with offer := none }

theorem withoutOffer_copy (b : Batch) (q : Port) :
    (withoutOffer b).copy q = if b.copy q = .offered then .noCopy else b.copy q :=
  mapCopies_copy (fun _ c => if c = .offered then .noCopy else c) b q

theorem applyExpiry_converts {i : SourceId} {b : Batch} {k : SlotId} {f : Port} (s : State)
    (hb : (s.src i).batch = some b) (ho : b.offer = some k) (hf : (s.src i).routing.fallback = some f) :
    applyExpiry i b.ref true s = convertToFallback i (withoutOffer b) f (setBatch i (withoutOffer b) s) := by
  have hsome : b.offer.isSome = true := by rw [ho]; rfl
  simp only [applyExpiry, batchOf_named hb, hsome, if_true, setBatch_record, hf]
  rfl

theorem applyExpiry_discards {i : SourceId} {b : Batch} {k : SlotId} (s : State)
    (hb : (s.src i).batch = some b) (ho : b.offer = some k) :
    applyExpiry i b.ref false s = discardExpired i (setBatch i (withoutOffer b) s) := by
  have hsome : b.offer.isSome = true := by rw [ho]; rfl
  simp only [applyExpiry, batchOf_named hb, hsome, if_true]
  rfl

/-- A batch that an expired offer leaves converts as the batch itself does. -/
theorem convertedTo_withoutOffer {f : Port} {b b' : Batch} (h : convertedTo f (withoutOffer b) b') : convertedTo f b b' := by
  obtain ⟨hrest, hcopies⟩ := h
  refine ⟨hrest, fun q => ?_⟩
  rw [hcopies, withoutOffer_copy]
  by_cases hq : b.copy q = .offered <;> simp [hq]

/-- Settles O25, by the outcome that the report names. -/
theorem expiryReports : Obligations.ExpiryReports := by
  unfold Obligations.ExpiryReports
  intro i ref cause s hc
  refine ⟨?_, ?_, fun converted hnone => exec_ignored rfl hc ?_⟩
  · rintro b f k hb rfl ho hf
    let c := Instr.expiryReport i b.ref true cause
    obtain ⟨b', hconv, hto⟩ := convertToFallback_spec i (withoutOffer b) f (setBatch i (withoutOffer b) (s.arrive c))
    obtain ⟨t, ht, hsrc, hothers, hdone⟩ := exec_onSource (s := s) (c := c) (i := i)
      (r := { s.src i with batch := some b' }) (sent := [.placement f (fallbackPlacement i b)]) rfl hc (by
        rw [applyExpiry_converts (s.arrive c) hb ho hf, hconv, setBatch_record, setBatch, State.setSrc_setSrc]
        rfl)
    exact ⟨t, b', ht, hsrc, convertedTo_withoutOffer hto, hothers, hdone⟩
  · rintro b k trigger settle hb rfl ho hform hq hk hw h
    let c := Instr.expiryReport i b.ref false cause
    have hrec := setBatch_record i (withoutOffer b) (s.arrive c)
    refine exec_onSource (c := c) (sent := []) rfl hc ?_
    rw [applyExpiry_discards (s.arrive c) hb ho, discardExpired_line (b := withoutOffer b)
      (s := setBatch i (withoutOffer b) (s.arrive c)) (by rw [hrec]) hform rfl (by rw [hrec]; exact hq)
      (by rw [hrec]; exact hk) (by rw [hrec]; exact hw) (by rw [hrec]; exact h), hrec, setBatch, State.setSrc_setSrc,
      State.send_nil]
    rfl
  · simp only [applyExpiry, batchOf_none (s := s.arrive _) hnone]

/-! ### Grants -/

/-- The record that a grant which names the standing request is answered on. -/
def grantedState (i : SourceId) (s : State) : State := s.setSrc i { s.src i with slotRequest := none }

theorem grantedState_record (i : SourceId) (s : State) :
    (grantedState i s).src i = { s.src i with slotRequest := none } := State.setSrc_src_same _ _ _

theorem applyGrant_first {k : SlotId} {i : SourceId} {req : Nat} {s : State} (h : (s.src i).slotRequest = some req) :
    applyGrant k i .first req s = grantFirst k i (grantedState i s) := by
  simp only [applyGrant, h, if_true]
  rfl

theorem applyGrant_reOffer {k : SlotId} {i : SourceId} {ref req : Nat} {s : State}
    (h : (s.src i).slotRequest = some req) :
    applyGrant k i (.reOffer ref) req s = grantReOffer k i ref (grantedState i s) := by
  simp only [applyGrant, h, if_true]
  rfl

theorem applyGrant_mismatch {k : SlotId} {i : SourceId} {kind : RequestKind} {req : Nat} {s : State}
    (h : (s.src i).slotRequest ≠ some req) : applyGrant k i kind req s = s.send [.grantDecline k] := by
  simp only [applyGrant, h, if_false]

/-- A batch opened to candidates in a slot (R15, R88). -/
def openedBatch (k : SlotId) (candidates : PortSet) (b : Batch) : Batch :=
  { mapCopies (fun p c => if portIn p candidates then .offered else c) b with offer := some k }

theorem openedBatch_copy (k : SlotId) (candidates : PortSet) (b : Batch) (q : Port) :
    (openedBatch k candidates b).copy q = if portIn q candidates then .offered else b.copy q :=
  mapCopies_copy (fun p c => if portIn p candidates then .offered else c) b q

theorem openAnswer_eq (k : SlotId) (i : SourceId) (b : Batch) (candidates : PortSet) (s : State) :
    openAnswer k i b candidates s =
      (s.setSrc i { s.src i with batch := some (openedBatch k candidates b) }).send
        [.grantOpen k i b.ref b.priority candidates b.excluded (fieldsOf b)] := rfl

theorem seenOf_mem (s : State) (targets : PortSet) (q : Port) :
    portIn q (seenOf s targets) = true ↔ portIn q targets = true ∧ seen s q := by
  rw [portIn_seenOf, Bool.and_eq_true, tableSees_iff]

/-- The FIRST grant of a WAITING source with something pending, and a target seen. -/
theorem grantFirst_opens {k : SlotId} {i : SourceId} {s : State} {r : Source} {candidates : PortSet} (hr : s.src i = r)
    (hw : r.state = .waiting) (hrun : s.runState = .running) (hp : pendingCount r ≠ 0)
    (hset : seenOf s r.routing.targets = candidates) (hne : candidates ≠ 0#4) :
    grantFirst k i s =
      (s.setSrc i { formed r (newBatch r .shared) with
        batch := some (openedBatch k candidates (newBatch r .shared)) }).send
        [.grantOpen k i r.nextRef r.routing.priority candidates 0#4 (pendingFields r)] := by
  subst hr hset
  have hb := newBatch_eq (s.src i) .shared
  simp only [grantFirst]
  rw [if_pos ⟨hw, hrun, hp⟩, if_neg hne, openAnswer_eq, State.setSrc_src_same, State.setSrc_setSrc, pendingFields_newBatch,
    show (newBatch (s.src i) .shared).ref = (s.src i).nextRef by rw [hb],
    show (newBatch (s.src i) .shared).priority = (s.src i).routing.priority by rw [hb],
    show (newBatch (s.src i) .shared).excluded = 0#4 by rw [hb]]

theorem grantFirst_declined {k : SlotId} {i : SourceId} {s : State} (hw : (s.src i).state = .waiting)
    (hrun : s.runState = .running) (hp : pendingCount (s.src i) ≠ 0)
    (hnot : ∀ q, portIn q (s.src i).routing.targets = true → ¬ seen s q) :
    grantFirst k i s = attemptFallback i (s.send [.grantDecline k]) := by
  have hempty : seenOf s (s.src i).routing.targets = 0#4 := (portSet_empty_iff _).2 fun q =>
    Bool.eq_false_iff.2 fun h => hnot q ((seenOf_mem s _ q).1 h).1 ((seenOf_mem s _ q).1 h).2
  simp only [grantFirst]
  rw [if_pos ⟨hw, hrun, hp⟩, if_pos hempty]

theorem grantFirst_stopped {k : SlotId} {i : SourceId} {s : State} (hstop : s.runState = .stopped) :
    grantFirst k i s = s.send [.grantDecline k] := by
  simp only [grantFirst, hstop]
  simp

/-- A grant on its way is no attach report. -/
theorem seen_granted (i : SourceId) (s : State) (k : SlotId) (kind : RequestKind) (req : Nat) :
    seen (grantedState i (s.arrive (.slotGrant k i kind req))) = seen s :=
  seen_congr rfl fun q => List.mem_erase_of_ne (by simp)

theorem seen_declined (s : State) (k : SlotId) : seen (s.send [.grantDecline k]) = seen s :=
  seen_congr rfl fun q => by simp

/-- The RE-OFFER grant of a batch that still has a candidate. -/
theorem grantReOffer_opens {k : SlotId} {i : SourceId} {s : State} {b : Batch} {candidates : PortSet}
    (hb : (s.src i).batch = some b) (hset : candidatesOf s (s.src i).routing.targets b.excluded = candidates)
    (hne : candidates ≠ 0#4) : grantReOffer k i b.ref s = openAnswer k i b candidates s := by
  subst hset
  simp only [grantReOffer, batchOf_named hb]
  rw [if_neg hne]

theorem grantReOffer_declined {k : SlotId} {i : SourceId} {s : State} {b : Batch} (hb : (s.src i).batch = some b)
    (hempty : candidatesOf s (s.src i).routing.targets b.excluded = 0#4) :
    grantReOffer k i b.ref s = noReOffer i b (s.send [.grantDecline k]) := by
  simp only [grantReOffer, batchOf_named hb]
  rw [if_pos hempty]

theorem grantReOffer_ended {k : SlotId} {i : SourceId} {ref : Nat} {s : State}
    (h : ∀ b, (s.src i).batch = some b → b.ref ≠ ref) : grantReOffer k i ref s = s.send [.grantDecline k] := by
  simp only [grantReOffer, batchOf_none h]

/-- The clauses of R15 for a FIRST grant that names the standing request of a WAITING source. -/
theorem firstGrant_answered {k : SlotId} {i : SourceId} {req : Nat} {s : State} (hc : s.crst = false)
    (hreq : (s.src i).slotRequest = some req) (hw : (s.src i).state = .waiting) (hrun : s.runState = .running)
    (hp : pendingCount (s.src i) ≠ 0) :
    (∀ candidates, (∀ q, portIn q candidates = true ↔ portIn q (s.src i).routing.targets = true ∧ seen s q) →
      candidates ≠ 0#4 → ∃ t b, exec (.slotGrant k i .first req) s = .next t ∧
        t.src i = { formed { s.src i with slotRequest := none } b with batch := some (openedBatch k candidates b) } ∧
        b = newBatch { s.src i with slotRequest := none } .shared ∧ otherSources i s t ∧
        eventDone (.slotGrant k i .first req)
          [.grantOpen k i (s.src i).nextRef (s.src i).routing.priority candidates 0#4 (pendingFields (s.src i))]
          [.sources] s t) ∧
    ((∀ q, portIn q (s.src i).routing.targets = true → ¬ seen s q) → ∃ t sent,
      exec (.slotGrant k i .first req) s = .next t ∧
      lastResort (seen s) i { s.src i with slotRequest := none } (t.src i) sent ∧ otherSources i s t ∧
      eventDone (.slotGrant k i .first req) ([.grantDecline k] ++ sent) [.sources] s t) := by
  let c := Instr.slotGrant k i .first req
  have hact := applyGrant_first (k := k) (i := i) (s := s.arrive c) hreq
  have hrec : (grantedState i (s.arrive c)).src i = { s.src i with slotRequest := none } := grantedState_record i (s.arrive c)
  have hseen : seen (grantedState i (s.arrive c)) = seen s := seen_granted i s k .first req
  refine ⟨fun candidates hcand hne => ?_, fun hnot => ?_⟩
  · have hset : seenOf (grantedState i (s.arrive c)) (s.src i).routing.targets = candidates :=
      portSet_eq (fun q => by rw [seenOf_mem, hseen]) hcand
    obtain ⟨t, ht, hsrc, hothers, hdone⟩ := exec_onSource (s := s) (c := c) (i := i) rfl hc (by
      rw [hact, grantFirst_opens hrec hw hrun hp hset hne, grantedState, State.setSrc_setSrc])
    exact ⟨t, _, ht, hsrc, rfl, hothers, hdone⟩
  · obtain ⟨sent, hon, hlast⟩ := attemptFallback_spec i ((grantedState i (s.arrive c)).send [.grantDecline k])
    obtain ⟨t, ht, hsrc, hothers, hdone⟩ := exec_onSource (s := s) (c := c) (i := i) (sent := [.grantDecline k] ++ sent)
      rfl hc (by
        rw [hact, grantFirst_declined (s := grantedState i (s.arrive c)) (by rw [hrec]; exact hw) hrun (by rw [hrec]; exact hp)
          (by rw [hrec, hseen]; exact hnot), hon, State.setSrc_send, State.send_send, grantedState, State.setSrc_setSrc])
    rw [seen_declined, hseen, State.send_src, hrec] at hlast
    exact ⟨t, sent, ht, hsrc ▸ hlast, hothers, hdone⟩

/-- The clauses of R15 and R21 for a RE-OFFER grant that names the standing request, its batch not ended. -/
theorem reOfferGrant_answered {k : SlotId} {i : SourceId} {req : Nat} {s : State} {b : Batch} (hc : s.crst = false)
    (hreq : (s.src i).slotRequest = some req) (hb : (s.src i).batch = some b) {candidates : PortSet}
    (hcand : ∀ q, portIn q candidates = true ↔
      portIn q (s.src i).routing.targets = true ∧ (s.port q).pstate = .attached ∧ portIn q b.excluded = false) :
    (candidates ≠ 0#4 → ∃ t, exec (.slotGrant k i (.reOffer b.ref) req) s = .next t ∧
      t.src i = { s.src i with slotRequest := none, batch := some (openedBatch k candidates b) } ∧ otherSources i s t ∧
      eventDone (.slotGrant k i (.reOffer b.ref) req)
        [.grantOpen k i b.ref b.priority candidates b.excluded (fieldsOf b)] [.sources] s t) ∧
    (candidates = 0#4 →
      (∀ f, (s.src i).routing.fallback = some f → (s.port f).pstate = .attached → portIn f b.excluded = false →
        ∃ t b', exec (.slotGrant k i (.reOffer b.ref) req) s = .next t ∧
          t.src i = { s.src i with slotRequest := none, batch := some b' } ∧ convertedTo f b b' ∧ otherSources i s t ∧
          eventDone (.slotGrant k i (.reOffer b.ref) req) [.grantDecline k, .placement f (fallbackPlacement i b)]
            [.sources] s t) ∧
      ((∀ f, (s.src i).routing.fallback = some f → (s.port f).pstate = .attached → portIn f b.excluded = true) →
        b.form = .shared → b.offer = none → ∀ trigger settle, (s.src i).routing.kind = .line trigger settle →
        (s.src i).words = [] → ((s.src i).pending = 0 ∨ s.runState = .stopped) → ∃ t sent,
          exec (.slotGrant k i (.reOffer b.ref) req) s = .next t ∧
          t.src i = { s.src i with
            slotRequest := none, batch := none, lastOutcome := .expired,
            state := if (s.src i).pending = 0 then .idle else .waiting } ∧
          otherSources i s t ∧ expiredNotice s i sent ∧
          eventDone (.slotGrant k i (.reOffer b.ref) req) ([.grantDecline k] ++ sent) [.sources] s t)) := by
  let c := Instr.slotGrant k i (.reOffer b.ref) req
  have hact := applyGrant_reOffer (k := k) (i := i) (ref := b.ref) (s := s.arrive c) hreq
  have hrec : (grantedState i (s.arrive c)).src i = { s.src i with slotRequest := none } := grantedState_record i (s.arrive c)
  have hset : candidatesOf (grantedState i (s.arrive c)) (s.src i).routing.targets b.excluded = candidates :=
    portSet_eq (fun q => candidatesOf_mem _ _ _ q) hcand
  refine ⟨fun hne => ?_, fun hempty => ?_⟩
  · refine exec_onSource (c := c) rfl hc ?_
    rw [hact, grantReOffer_opens (by rw [hrec]; exact hb) (by rw [hrec]; exact hset) hne, openAnswer_eq, hrec, grantedState,
      State.setSrc_setSrc]
  · subst hempty
    have hact' := hact.trans (grantReOffer_declined (s := grantedState i (s.arrive c)) (by rw [hrec]; exact hb)
      (by rw [hrec]; exact hset))
    let u := (grantedState i (s.arrive c)).send [.grantDecline k]
    have hu : u.src i = { s.src i with slotRequest := none } := hrec
    refine ⟨fun f hf ha he => ?_, fun hnof hform ho trigger settle hk hw h => ?_⟩
    · obtain ⟨b', hconv, hto⟩ := convertToFallback_spec i b f u
      obtain ⟨t, ht, hsrc, hothers, hdone⟩ := exec_onSource (s := s) (c := c) (i := i)
        (sent := [.grantDecline k, .placement f (fallbackPlacement i b)]) rfl hc (by
          rw [hact', noReOffer_fallback (s := u) (by rw [hu]; exact hf) ha he, hconv, hu, State.setSrc_send,
            State.send_send, grantedState, State.setSrc_setSrc]
          rfl)
      exact ⟨t, b', ht, hsrc, hto, hothers, hdone⟩
    · have hnotice : expiredNotice s i (expiredByTable i u) :=
        expiredNotice_congr (t := u) (by rw [hu]) rfl (expiredByTable_spec i u)
      obtain ⟨t, ht, hsrc, hothers, hdone⟩ := exec_onSource (s := s) (c := c) (i := i)
        (sent := [.grantDecline k] ++ expiredByTable i u) rfl hc (by
          rw [hact', noReOffer_none (s := u) (by rw [hu]; exact hnof),
            discardExpired_line (s := u) (b := b) (by rw [hu]; exact hb) hform ho (by rw [hu]) (by rw [hu]; exact hk) (by rw [hu]; exact hw) (by rw [hu]; exact h), hu,
            State.setSrc_send, State.send_send, grantedState, State.setSrc_setSrc])
      exact ⟨t, _, ht, hsrc, hothers, hnotice, hdone⟩

/-- Settles O26, by what the grant names and what is left of the targets and the fallback. -/
theorem slotGrants : Obligations.SlotGrants := by
  unfold Obligations.SlotGrants
  intro k i req s hc r first
  refine ⟨fun hreq hw => ⟨fun hrun hp => ⟨fun candidates hcand hne => ?_, ?_⟩, fun hstop => ?_⟩, ?_,
    fun ref hreq hnone => ?_, fun kind hreq => ?_⟩
  · obtain ⟨t, b, ht, hsrc, hb, hothers, hdone⟩ := (firstGrant_answered hc hreq hw hrun hp).1 candidates hcand hne
    rw [newBatch_eq] at hb
    refine ⟨t, openedBatch k candidates b, ht, hsrc, ?_, fun q => ?_, hothers, hdone⟩
    · rw [hb]
      rfl
    · rw [openedBatch_copy, hb]
      match q with
      | 0 | 1 | 2 | 3 => rfl
  · exact (firstGrant_answered hc hreq hw hrun hp).2
  · refine exec_onSource (c := first) rfl hc ?_
    rw [applyGrant_first (s := s.arrive first) hreq, grantFirst_stopped (s := grantedState i (s.arrive first)) hstop]
    rfl
  · intro b hreq hb c candidates hcand
    obtain ⟨hopens, hdeclined⟩ := reOfferGrant_answered hc hreq hb hcand
    refine ⟨fun hne => ?_, hdeclined⟩
    obtain ⟨t, ht, hsrc, hothers, hdone⟩ := hopens hne
    exact ⟨t, openedBatch k candidates b, ht, hsrc, rfl, openedBatch_copy k candidates b, hothers, hdone⟩
  · refine exec_onSource rfl hc ?_
    rw [applyGrant_reOffer (s := s.arrive _) hreq, grantReOffer_ended (s := grantedState i (s.arrive _))]
    · rfl
    · rw [grantedState_record]
      exact hnone
  · exact exec_sends rfl hc (applyGrant_mismatch (s := s.arrive _) hreq)

end Sys2Proof.Machine
end

section
/-! PROOFS. The choices of the slot arbiter and of the admission arbiter; the request list; the answers to grants; claims; how
an offer closes. -/

namespace Sys2Proof.Machine

/-! ### Choices -/

/-- A choice made from the end of a list, which a later item takes from an earlier one only by ranking strictly before it,
splits the list: it ranks strictly before what arrived earlier, and nothing that arrived later ranks before it. -/
theorem choice_splits {α : Type} {before : α → α → Bool} {best : List α → Option α} (hnil : best [] = none)
    (hnone : ∀ l, best l = none → l = []) (hlast : ∀ x l, best l = none → best (x :: l) = some x)
    (hmore : ∀ x l b, best l = some b → best (x :: l) = some (if before b x then b else x))
    {rank : α → Nat} (hrank : ∀ x y, before x y = decide (rank x < rank y)) {l : List α} {o : α}
    (h : best l = some o) : ∃ earlier later, l = earlier ++ o :: later ∧
      (∀ x ∈ earlier, before o x = true) ∧ ∀ x ∈ later, before x o = false := by
  induction l generalizing o with
  | nil => rw [hnil] at h; cases h
  | cons x l ih =>
    cases hb : best l with
    | none =>
      rw [hlast x l hb] at h
      cases h
      exact ⟨[], [], by rw [hnone l hb]; rfl, by simp, by simp⟩
    | some b =>
      obtain ⟨earlier, later, hl, hearlier, hlater⟩ := ih hb
      rw [hmore x l b hb] at h
      cases hx : before b x with
      | true =>
        rw [hx, if_pos rfl] at h
        cases h
        exact ⟨x :: earlier, later, by rw [hl]; rfl, by simpa [hx] using hearlier, hlater⟩
      | false =>
        rw [hx, if_neg Bool.false_ne_true] at h
        cases h
        refine ⟨[], l, rfl, by simp, fun y hy => ?_⟩
        have hmin : rank b ≤ rank y := by
          simp only [hrank, decide_eq_true_eq, decide_eq_false_iff_not] at hearlier hlater
          rw [hl, List.mem_append, List.mem_cons] at hy
          rcases hy with he | rfl | hla
          · exact (hearlier y he).le
          · exact Nat.le_refl _
          · exact Nat.not_lt.1 (hlater y hla)
        rw [hrank, decide_eq_false_iff_not] at hx ⊢
        omega

/-- There is a choice from any list but the empty one. -/
theorem choice_exists {α : Type} {best : List α → Option α} (hnone : ∀ l, best l = none → l = []) {l : List α}
    (h : l ≠ []) : ∃ o, best l = some o :=
  Option.ne_none_iff_exists'.1 fun hb => h (hnone l hb)

theorem grantedBefore_iff (now : Time) (a b : Request) : grantedBefore now a b = true ↔
    isReOffer a.kind = true ∧ isReOffer b.kind = false ∨ isReOffer a.kind = isReOffer b.kind ∧
      (a.priority < b.priority ∨ a.priority = b.priority ∧ (now - b.stamp).toNat < (now - a.stamp).toNat) := by
  simp only [grantedBefore, Bool.or_eq_true, Bool.and_eq_true, Bool.not_eq_true', beq_iff_eq, decide_eq_true_eq]
  rfl

theorem admittedBefore_iff (now : Time) (a b : Owed) : admittedBefore now a b = true ↔
    a.entry.priority < b.entry.priority ∨
      a.entry.priority = b.entry.priority ∧ (now - b.since).toNat < (now - a.since).toNat := by
  simp only [admittedBefore, Bool.or_eq_true, Bool.and_eq_true, beq_iff_eq, decide_eq_true_eq]
  rfl

/-- Priority and age as one number: the smaller ranks first. -/
def urgency (priority : Priority) (age : BitVec 32) : Nat := priority.val * 2 ^ 32 + (2 ^ 32 - 1 - age.toNat)

theorem urgency_lt_iff (p q : Priority) (a b : BitVec 32) :
    urgency p a < urgency q b ↔ p < q ∨ p = q ∧ b.toNat < a.toNat := by
  have := a.isLt
  have := b.isLt
  simp only [urgency, Fin.lt_def, Fin.ext_iff]
  omega

/-- The rank of a request at the slot arbiter: a RE-OFFER's comes before every FIRST's. -/
def requestRank (now : Time) (r : Request) : Nat :=
  (if isReOffer r.kind then 0 else 2 ^ 35) + urgency r.priority (now - r.stamp)

theorem grantedBefore_rank (now : Time) (a b : Request) :
    grantedBefore now a b = decide (requestRank now a < requestRank now b) := by
  have hbound (r : Request) : urgency r.priority (now - r.stamp) < 2 ^ 35 := by
    have := r.priority.isLt
    simp only [urgency]
    omega
  have ha := hbound a
  have hb := hbound b
  have hlt := urgency_lt_iff a.priority b.priority (now - a.stamp) (now - b.stamp)
  rw [Bool.eq_iff_iff, grantedBefore_iff, decide_eq_true_iff, ← hlt]
  simp only [requestRank]
  cases isReOffer a.kind <;> cases isReOffer b.kind <;> simp <;> omega

theorem admittedBefore_rank (now : Time) (a b : Owed) : admittedBefore now a b =
    decide (urgency a.entry.priority (now - a.since) < urgency b.entry.priority (now - b.since)) := by
  rw [Bool.eq_iff_iff, admittedBefore_iff, decide_eq_true_iff, urgency_lt_iff]

theorem bestRequest_splits {now : Time} {l : List Request} {r : Request} (h : bestRequest now l = some r) :
    ∃ earlier later, l = earlier ++ r :: later ∧
      (∀ x ∈ earlier, grantedBefore now r x = true) ∧ ∀ x ∈ later, grantedBefore now x r = false :=
  choice_splits (before := grantedBefore now) rfl (fun _ => bestRequest_none) (fun x l hb => by simp [bestRequest, hb])
    (fun x l b hb => by simp only [bestRequest, hb]; split <;> rfl) (grantedBefore_rank now) h

theorem bestOwed_splits {now : Time} {l : List Owed} {o : Owed} (h : bestOwed now l = some o) :
    ∃ earlier later, l = earlier ++ o :: later ∧
      (∀ x ∈ earlier, admittedBefore now o x = true) ∧ ∀ x ∈ later, admittedBefore now x o = false :=
  choice_splits (before := admittedBefore now) rfl (fun _ => bestOwed_none) (fun x l hb => by simp [bestOwed, hb])
    (fun x l b hb => by simp only [bestOwed, hb]; split <;> rfl) (admittedBefore_rank now) h

/-! ### The slot arbiter's run (R84, R85, R87) -/

theorem runArbiter_noRequest {s : State} (h : s.requests = []) : runArbiter s = s := by
  rw [runArbiter, h]
  rfl

theorem runArbiter_noSlot {s : State} (h : ∀ k, s.offer k ≠ .free) : runArbiter s = s := by
  rw [runArbiter]
  cases s.requests.length with
  | zero => rfl
  | succ n => simp only [arbitrate, lowestFreeOffer_none h]

theorem runArbiter_grants {s : State} {k : SlotId} {r : Request} (hk : s.offer k = .free)
    (hlow : ∀ j, j < k → s.offer j ≠ .free) (hr : bestRequest s.time s.requests = some r) :
    runArbiter s = runArbiter (grantSlot k r { s with requests := s.requests.erase r }) := by
  have hlen : s.requests.length = (s.requests.erase r).length + 1 := by
    have := List.length_erase_of_mem (bestRequest_mem hr)
    have := List.length_pos_of_mem (bestRequest_mem hr)
    omega
  rw [runArbiter, hlen, arbitrate, lowestFreeOffer_eq hk hlow, hr]
  rfl

/-- Settles O28, from the ranking of requests and one turn of the arbiter's run. -/
theorem slotArbiter : Obligations.SlotArbiter := by
  unfold Obligations.SlotArbiter
  exact ⟨⟨fun _ _ _ => bestRequest_splits, fun _ _ => choice_exists fun _ => bestRequest_none, grantedBefore_iff⟩,
    fun _ => ⟨runArbiter_noRequest, runArbiter_noSlot, fun _ _ => runArbiter_grants⟩⟩

/-- Settles O27, by whether a slot is FREE. -/
theorem slotRequests : Obligations.SlotRequests := by
  unfold Obligations.SlotRequests
  refine ⟨fun i kind req priority stamp s hc => ⟨fun k hk hlow => ?_, fun hk => ?_⟩, fun i req s hc => ?_⟩
  · refine exec_onOffer rfl hc ?_
    rw [takeRequest, lowestFreeOffer_eq (s := s.arrive _) hk hlow]
    rfl
  · let c := Instr.slotRequest i kind req priority stamp
    have hact : takeRequest { source := i, kind := kind, req := req, priority := priority, stamp := stamp } (s.arrive c) =
        { s.arrive c with requests := s.requests ++
            [{ source := i, kind := kind, req := req, priority := priority, stamp := stamp }] } := by
      rw [takeRequest, lowestFreeOffer_none (s := s.arrive c) hk]
      rfl
    obtain ⟨ht, hd⟩ := exec_changes (c := c) (sent := []) (changed := [.requests]) rfl hc
      (by rw [hact]; simp [sameBut_iff]) (by rw [hact]; simp)
    exact ⟨_, ht, by rw [judgeAttn_requests, hact], hd⟩
  · let c := Instr.slotRequestCancel i req
    obtain ⟨ht, hd⟩ := exec_changes (c := c) (sent := []) (changed := [.requests]) rfl hc
      (by simp [sameBut_iff, takeCancel]) (by simp [takeCancel])
    refine ⟨_, ht, fun r => ?_, ?_, hd⟩
    · rw [judgeAttn_requests]
      simp only [takeCancel, List.mem_filter, State.arrive_requests, Bool.not_eq_true', Bool.and_eq_false_iff,
        beq_eq_false_iff_ne, ne_eq, not_and_or]
    · rw [judgeAttn_requests]
      exact List.filter_sublist

/-! ### Rows that free a slot of the Offer List -/

/-- A message whose act sends messages and frees a slot: the arbiter runs on the freed state, and ATTN is judged. -/
theorem exec_frees {c : Instr} {act : State → State} {sent : List Instr} {s : State} {k : SlotId}
    (ha : eventAct c = some act) (hc : s.crst = false) (h : act (s.arrive c) = freeSlot k ((s.arrive c).send sent)) :
    ∃ u, exec c s = .next (judgeAttn (runArbiter u)) ∧ u.offer k = .free ∧ otherOffers k s u ∧
      u.inFlight = s.inFlight.erase c ++ sent ∧ sameBut [.offers, .messages] s u :=
  ⟨((s.arrive c).send sent).setOffer k .free, by rw [exec_event ha, eventStep_running _ _ _ hc, h]; rfl,
    State.setOffer_offer_same _ _ _, fun j hj => State.setOffer_offer_ne _ _ _ _ hj, rfl, by simp [sameBut_iff]⟩

/-- What a slot held before it is freed does not matter. -/
theorem freeSlot_setOffer (k : SlotId) (x : OfferSlot) (s : State) (sent : List Instr) :
    freeSlot k ((s.setOffer k x).send sent) = freeSlot k (s.send sent) := by
  have h : ((s.setOffer k x).send sent).setOffer k .free = (s.send sent).setOffer k .free :=
    congrArg (State.send · sent) (State.setOffer_setOffer s k x .free)
  rw [freeSlot, freeSlot, h]

/-! ### Answers to grants (R86, R88) -/

/-- Settles O29, by whether the slot is RESERVED. -/
theorem grantAnswers : Obligations.GrantAnswers := by
  unfold Obligations.GrantAnswers
  refine fun k s hc => ⟨fun i kind req hk => ⟨fun j ref priority candidates excluded fields => ?_, ?_⟩, fun hk => ⟨?_, ?_⟩⟩
  · refine exec_onOffer rfl hc ?_
    simp only [openOffer, State.arrive_offer, hk]
    rfl
  · obtain ⟨u, hu, hfree, hothers, hsent, hsame⟩ := exec_frees (s := s) (c := .grantDecline k) (sent := []) (k := k) rfl hc (by
      simp only [takeDecline, State.arrive_offer, hk, State.send_nil])
    exact ⟨u, hu, hfree, hothers, by rw [hsent, List.append_nil], hsame⟩
  · refine exec_ignored rfl hc ?_
    rw [takeDecline]
    split
    · next h => exact absurd h (hk _ _ _)
    · rfl
  · intro j ref priority candidates excluded fields
    refine exec_ignored rfl hc ?_
    simp only [openOffer]
    split
    · next h => exact absurd h (hk _ _ _)
    · rfl

/-! ### Claims, admissions and losses (R89 to R92, R99) -/

/-- A test that only offers of one source pass finds that source's one offer. -/
theorem findOffer_ofSource {test : Offer → Bool} {k : SlotId} {o : Offer} {s : State} (hk : s.offer k = .opened o)
    (honly : ∀ j o', s.offer j = .opened o' → o'.source = o.source → j = k) (ht : test o = true)
    (hsource : ∀ x, test x = true → x.source = o.source) : findOffer s test = some (k, o) :=
  findOffer_only hk ht fun j o' hj h => honly j o' hj (hsource o' h)

theorem findOffer_candidate {p : Port} {k : SlotId} {o : Offer} {s : State} (hk : s.offer k = .opened o)
    (hp : portIn p o.candidates = true) (honly : ∀ j o', s.offer j = .opened o' → o'.source = o.source → j = k) :
    (findOffer s fun x => x.source == o.source && x.ref == o.ref && x.round == o.round && portIn p x.candidates) =
      some (k, o) :=
  findOffer_ofSource hk honly (by simp [hp]) fun x hx => by
    simp only [Bool.and_eq_true, beq_iff_eq] at hx
    obtain ⟨⟨⟨hsource, -⟩, -⟩, -⟩ := hx
    exact hsource

theorem takeClaim_granted {p : Port} {k : SlotId} {o : Offer} {s : State} (hk : s.offer k = .opened o)
    (hp : portIn p o.candidates = true) (honly : ∀ j o', s.offer j = .opened o' → o'.source = o.source → j = k) :
    takeClaim p o.source o.ref o.round s = freeSlot k (s.send ([.claimGranted o.source o.ref p,
      .claimAnswer p o.source o.ref o.round true] ++ offerWithdrawals o (withoutPort o.candidates p))) := by
  rw [takeClaim, findOffer_candidate hk hp honly]

theorem takeClaim_lost {p : Port} {i : SourceId} {ref round : Nat} {s : State} (h : ∀ k o, s.offer k = .opened o →
    ¬ (o.source = i ∧ o.ref = ref ∧ o.round = round ∧ portIn p o.candidates = true)) :
    takeClaim p i ref round s = s.send [.claimAnswer p i ref round false] := by
  have hfind : (findOffer s fun o => o.source == i && o.ref == ref && o.round == round && portIn p o.candidates) = none :=
    findOffer_none fun k o hk => Bool.eq_false_iff.2 fun ht => h k o hk (by simpa [and_assoc] using ht)
  rw [takeClaim, hfind]

/-- The members of a set but one, ascending. -/
theorem portsOf_withoutPort (S : PortSet) (p : Port) :
    portsOf (withoutPort S p) = allPorts.filter fun q => portIn q S && q ≠ p :=
  List.filter_congr fun q _ => portIn_withoutPort S p q

/-- Settles O30, by whether an open offer matches the claim. -/
theorem claimsGrantedOrLost : Obligations.ClaimsGrantedOrLost := by
  unfold Obligations.ClaimsGrantedOrLost
  refine fun p i ref round s hc => ⟨fun k o hk hi href hround hp honly => ?_, fun h => ?_⟩
  · subst hi href hround
    have hact := takeClaim_granted (s := s.arrive (.claim p o.source o.ref o.round)) hk hp honly
    rw [offerWithdrawals, portsOf_withoutPort] at hact
    exact exec_frees rfl hc hact
  · exact exec_sends rfl hc (takeClaim_lost (s := s.arrive _) h)

/-- The offer without a candidate that is lost (R99). -/
def withoutCandidate (o : Offer) (p : Port) : Offer :=
  { o with
    candidates := withoutPort o.candidates p, holders := withoutPort o.holders p, owed := withoutPort o.owed p }

theorem takeCandidateLoss_eq {p : Port} {k : SlotId} {o : Offer} {s : State} (hk : s.offer k = .opened o)
    (hp : portIn p o.candidates = true) (honly : ∀ j o', s.offer j = .opened o' → o'.source = o.source → j = k) :
    takeCandidateLoss o.source o.ref o.round p s =
      if withoutPort o.candidates p = 0#4 then expireOffer k (withoutCandidate o p) .lastCandidateLost
        ((s.setOffer k (.opened (withoutCandidate o p))).send [.candidateLost o.source o.ref p])
      else (s.setOffer k (.opened (withoutCandidate o p))).send [.candidateLost o.source o.ref p] := by
  rw [takeCandidateLoss, findOffer_candidate hk hp honly]
  rfl

/-- Settles O31, from the one offer of the source. -/
theorem candidateReports : Obligations.CandidateReports := by
  unfold Obligations.CandidateReports
  refine fun k o p s hc hk honly => ⟨fun hp => ?_, fun hp hne => ?_⟩
  · refine exec_onOffer (sent := []) rfl hc ?_
    have hfind : (findOffer (s.arrive (.offerAdmissionReport o.source p o.round))
        fun x => x.source == o.source && x.round == o.round && portIn p x.owed) = some (k, o) :=
      findOffer_ofSource hk honly (by simp [hp]) fun x hx => by
        simp only [Bool.and_eq_true, beq_iff_eq] at hx
        obtain ⟨⟨hsource, -⟩, -⟩ := hx
        exact hsource
    rw [takeOfferAdmission, hfind, State.send_nil]
  · refine exec_onOffer rfl hc ?_
    rw [takeCandidateLoss_eq (s := s.arrive _) hk hp honly, if_neg hne]
    rfl

/-! ### How an offer closes (R96, R98, R100, R101) -/

theorem exclusionOf_usable {s : State} {i : SourceId} {ref : Nat} {f : Port} : portIn f (exclusionOf s i ref) = false ↔
    ∀ b, (s.src i).batch = some b → b.ref = ref → portIn f b.excluded = false := by
  rw [exclusionOf]
  cases hb : (s.src i).batch with
  | none => simp [portIn]
  | some b => by_cases hr : b.ref = ref <;> simp [hr, portIn]

/-- The fallback of an offer's source that its close finds usable (R96). -/
theorem usableAtClose_iff {s : State} {o : Offer} :
    (usableFallback s (s.src o.source).routing (exclusionOf s o.source o.ref)).isSome = true ↔
      ∃ f, (s.src o.source).routing.fallback = some f ∧ (s.port f).pstate = .attached ∧
        ∀ b, (s.src o.source).batch = some b → b.ref = o.ref → portIn f b.excluded = false := by
  simp only [Option.isSome_iff_exists, usableFallback_some, exclusionOf_usable]

theorem expireOffer_eq {k : SlotId} {o : Offer} {cause : ExpiryCause} {usable : Bool} {s : State}
    (h : usable = true ↔ ∃ f, (s.src o.source).routing.fallback = some f ∧ (s.port f).pstate = .attached ∧
      ∀ b, (s.src o.source).batch = some b → b.ref = o.ref → portIn f b.excluded = false) :
    expireOffer k o cause s = freeSlot k (s.send (offerWithdrawals o o.candidates ++
      [.expiryReport o.source o.ref usable cause] ++ if usable then [] else expiredByArbiter s o.source)) := by
  have hu : (usableFallback s (s.src o.source).routing (exclusionOf s o.source o.ref)).isSome = usable :=
    Bool.eq_iff_iff.2 (usableAtClose_iff.trans h.symm)
  rw [expireOffer, hu]

/-- Settles O32, by what closes the offer. -/
theorem offersClose : Obligations.OffersClose := by
  unfold Obligations.OffersClose
  intro k o usable s hc hk honly hu withdrawals notice
  refine ⟨fun hr => ?_, fun p hp => ?_, ?_⟩
  · refine exec_frees rfl hc ?_
    simp only [takeOfferExpiry, State.arrive_offer, hk, State.arrive_time, hr, if_true]
    exact expireOffer_eq (s := s.arrive _) hu
  · refine exec_frees rfl hc ?_
    have hin : portIn p o.candidates = true := by rw [hp, portIn_onePort]; simp
    have hnone : withoutPort o.candidates p = 0#4 := by rw [hp]; exact withoutPort_onePort p
    rw [takeCandidateLoss_eq (s := s.arrive _) hk hin honly, if_pos hnone, expireOffer_eq (usable := usable) (by exact hu),
      State.send_send, freeSlot_setOffer, offerWithdrawals, show (withoutCandidate o p).candidates = 0#4 from hnone]
    rfl
  · refine exec_frees rfl hc ?_
    have hfind : (findOffer (s.arrive (.closeRequest o.source o.ref)) fun x => x.source == o.source && x.ref == o.ref) =
        some (k, o) :=
      findOffer_ofSource hk honly (by simp) fun x hx => by
        simp only [Bool.and_eq_true, beq_iff_eq] at hx
        obtain ⟨hsource, -⟩ := hx
        exact hsource
    rw [takeClose, hfind]
    rfl

end Sys2Proof.Machine
end

section
/-! PROOFS. The Delivery Units: the queue's order and its admission, the arrival of a placement, deliveries that end without
DONE, and the answers to claims. -/

namespace Sys2Proof.Machine

/-! ### Queue order (R60, R61) -/

theorem firstByPriority_mem {l : List Placement} {e : Placement} (h : firstByPriority l = some e) : e ∈ l := by
  induction l generalizing e with
  | nil => cases h
  | cons x l ih =>
    simp only [firstByPriority] at h
    split at h
    · cases h
      exact List.mem_cons_self
    · next f hf =>
      split at h <;> cases h
      · exact List.mem_cons_of_mem _ (ih hf)
      · exact List.mem_cons_self

/-- The first by priority: those admitted earlier have a lower priority, and none admitted later has a higher one. -/
theorem firstByPriority_eq {e : Placement} {earlier later : List Placement} (he : ∀ x ∈ earlier, e.priority < x.priority)
    (hl : ∀ x ∈ later, e.priority ≤ x.priority) : firstByPriority (earlier ++ e :: later) = some e := by
  induction earlier with
  | nil =>
    simp only [List.nil_append, firstByPriority]
    split
    · rfl
    · next f hf => rw [if_neg (not_lt.2 (hl f (firstByPriority_mem hf)))]
  | cons x earlier ih =>
    have hrest := ih fun y hy => he y (List.mem_cons_of_mem _ hy)
    simp only [List.cons_append, firstByPriority, hrest]
    rw [if_pos (he x List.mem_cons_self)]

theorem firstVisible_entry {d : DeliveryUnit} {e : Placement} {earlier later : List Placement} (hn : d.notices = [])
    (hd : d.entries = earlier ++ e :: later) (hv : priorityIn e.priority d.mask = true)
    (he : ∀ x ∈ earlier, priorityIn x.priority d.mask = true → e.priority < x.priority)
    (hl : ∀ x ∈ later, priorityIn x.priority d.mask = true → e.priority ≤ x.priority) :
    firstVisible d = some (.entry e) := by
  have hfilter : d.entries.filter (visible d) = earlier.filter (visible d) ++ e :: later.filter (visible d) := by
    rw [hd, List.filter_append, List.filter_cons_of_pos (p := visible d) hv]
  have hfirst := firstByPriority_eq (e := e) (earlier := earlier.filter (visible d)) (later := later.filter (visible d))
    (fun x hx => he x (List.mem_of_mem_filter hx) (List.mem_filter.1 hx).2)
    (fun x hx => hl x (List.mem_of_mem_filter hx) (List.mem_filter.1 hx).2)
  rw [firstVisible, hn, hfilter, hfirst]
  rfl

theorem firstVisible_notice {d : DeliveryUnit} {n : Notice} {rest : List Notice} (h : d.notices = n :: rest) :
    firstVisible d = some (.notice n) := by
  rw [firstVisible, h]

theorem firstVisible_none {d : DeliveryUnit} (hn : d.notices = [])
    (h : ∀ e ∈ d.entries, priorityIn e.priority d.mask = false) : firstVisible d = none := by
  have hfilter : d.entries.filter (visible d) = [] := List.filter_eq_nil_iff.2 fun e he => Bool.eq_false_iff.1 (h e he)
  rw [firstVisible, hn, hfilter]
  rfl

/-! ### Admission (R63, R64) -/

/-- One turn of the admission arbiter. -/
theorem admissions_next {now : Time} {p : Port} {n : Nat} {d : DeliveryUnit} {o : Owed} (hroom : d.entries.length < 16)
    (hb : bestOwed now d.owed = some o) :
    admissions now p (n + 1) d =
      ((admissions now p n { d with entries := d.entries ++ [o.entry], owed := d.owed.erase o }).1,
        admissionReports p o.entry ++
          (admissions now p n { d with entries := d.entries ++ [o.entry], owed := d.owed.erase o }).2) := by
  simp only [admissions, Config.queueCapacity, hroom, if_true, hb]

/-- Settles O35, from the split of each choice and the arbiter's whole run. -/
theorem queueOrderAndAdmission : Obligations.QueueOrderAndAdmission := by
  unfold Obligations.QueueOrderAndAdmission
  refine ⟨fun d => ⟨fun _ _ => firstVisible_notice, firstVisible_none, fun _ _ _ => firstVisible_entry⟩,
    fun _ _ _ => bestOwed_splits, fun _ _ => choice_exists fun _ => bestOwed_none,
    fun now p n d => ⟨fun h => ?_, fun o hroom hb => admissions_next hroom hb⟩, fun p e => rfl, admittedBefore_iff,
    fun now p d => ?_⟩
  · rcases h with hfull | hnothing
    · exact admissions_full hfull
    · exact admissions_nothing hnothing
  · obtain ⟨hstop, hfull, moved, hentries, hperm, hsent⟩ := admissions_run now p d.owed.length d (Nat.le_refl _)
    refine ⟨hstop, hfull, moved, ?_, hperm, hsent⟩
    rw [← hentries]
    exact admissions_frame now p d.owed.length d

/-! ### The arrival of a placement (R62, R64, R65) -/

/-- A single owed placement is admitted while an entry is free. -/
theorem admissions_one (now : Time) (p : Port) {d : DeliveryUnit} {o : Owed} (hroom : d.entries.length < 16)
    (ho : d.owed = [o]) :
    admissions now p 1 d = ({ d with entries := d.entries ++ [o.entry], owed := [] }, admissionReports p o.entry) := by
  have hb : bestOwed now d.owed = some o := by rw [ho]; rfl
  rw [admissions_next hroom hb, ho, List.erase_cons_head]
  simp [admissions]

/-- The unit to which a placement is owed. -/
def owing (now : Time) (e : Placement) (d : DeliveryUnit) : DeliveryUnit :=
  { d with owed := d.owed ++ [{ entry := e, since := now }] }

theorem owePlacement_setUnit (p : Port) (e : Placement) (d : DeliveryUnit) (s : State) :
    owePlacement p e (s.setUnit p d) = (s.setUnit p (admissions s.time p (d.owed.length + 1) (owing s.time e d)).1).send
      (admissions s.time p (d.owed.length + 1) (owing s.time e d)).2 := by
  have h := runAdmission_setUnit p (owing s.time e d) s
  rw [show (owing s.time e d).owed.length = d.owed.length + 1 from List.length_append] at h
  simp only [owePlacement, State.setUnit_unit_same, State.setUnit_setUnit, State.setUnit_time]
  exact h

theorem owePlacement_sent (p : Port) (e : Placement) (d : DeliveryUnit) (sent : List Instr) (s : State) :
    owePlacement p e ((s.setUnit p d).send sent) =
      (s.setUnit p (admissions s.time p (d.owed.length + 1) (owing s.time e d)).1).send
        (sent ++ (admissions s.time p (d.owed.length + 1) (owing s.time e d)).2) := by
  have h := owePlacement_setUnit p e d (s.send sent)
  rw [show (s.send sent).setUnit p d = (s.setUnit p d).send sent from rfl] at h
  rw [h, ← State.send_send]
  rfl

theorem admitAtOnce_setUnit (p : Port) (e : Placement) (d : DeliveryUnit) (s : State) :
    admitAtOnce p e (s.setUnit p d) =
      (s.setUnit p (admissions s.time p d.owed.length { d with entries := d.entries ++ [e] }).1).send
        (admissionReports p e ++ (admissions s.time p d.owed.length { d with entries := d.entries ++ [e] }).2) := by
  have h := runAdmission_setUnit p { d with entries := d.entries ++ [e] } (s.send (admissionReports p e))
  simp only [admitAtOnce, State.setUnit_unit_same, State.setUnit_setUnit]
  rw [show ((s.setUnit p { d with entries := d.entries ++ [e] }).send (admissionReports p e)) =
    (s.send (admissionReports p e)).setUnit p { d with entries := d.entries ++ [e] } from rfl, h, ← State.send_send]
  rfl

theorem takePlacement_owes {p : Port} {e : Placement} {s : State} (ha : (s.port p).pstate = .attached)
    (h : (withoutStale e.id.source (s.unit p)).owed = [] ∨ 16 ≤ (withoutStale e.id.source (s.unit p)).entries.length) :
    takePlacement p e s = owePlacement p e (s.setUnit p (withoutStale e.id.source (s.unit p))) := by
  have hcond : ¬ ((withoutStale e.id.source (s.unit p)).owed ≠ [] ∧
      (withoutStale e.id.source (s.unit p)).entries.length < Config.queueCapacity) := by
    rintro ⟨hne, hroom⟩
    rcases h with ho | hfull
    · exact hne ho
    · exact absurd hroom (Nat.not_lt.2 hfull)
  rw [takePlacement, if_pos ((attached_iff s p).2 ha)]
  simp only [hcond, if_false]

/-- With nothing else owed and an entry free, the placement is admitted. -/
theorem takePlacement_admitted {p : Port} {e : Placement} {s : State} (ha : (s.port p).pstate = .attached)
    (ho : (withoutStale e.id.source (s.unit p)).owed = [])
    (hroom : (withoutStale e.id.source (s.unit p)).entries.length < 16) :
    takePlacement p e s = (s.setUnit p { withoutStale e.id.source (s.unit p) with
      entries := (withoutStale e.id.source (s.unit p)).entries ++ [e], owed := [] }).send (admissionReports p e) := by
  have howing : (owing s.time e (withoutStale e.id.source (s.unit p))).owed = [{ entry := e, since := s.time }] := by
    rw [owing, ho]
    rfl
  rw [takePlacement_owes ha (.inl ho), owePlacement_setUnit, ho, List.length_nil,
    admissions_one s.time p (d := owing s.time e (withoutStale e.id.source (s.unit p))) hroom howing]
  rfl

/-- With every entry in use, the placement is owed. -/
theorem takePlacement_owed {p : Port} {e : Placement} {s : State} (ha : (s.port p).pstate = .attached)
    (hfull : 16 ≤ (withoutStale e.id.source (s.unit p)).entries.length) :
    takePlacement p e s = s.setUnit p (owing s.time e (withoutStale e.id.source (s.unit p))) := by
  rw [takePlacement_owes ha (.inr hfull), owePlacement_setUnit,
    admissions_full (d := owing s.time e (withoutStale e.id.source (s.unit p))) hfull, State.send_nil]

theorem takePlacement_replaces {p : Port} {e : Placement} {s : State} (ha : (s.port p).pstate = .attached)
    (hne : (withoutStale e.id.source (s.unit p)).owed ≠ [])
    (hroom : (withoutStale e.id.source (s.unit p)).entries.length < 16) :
    takePlacement p e s =
      if Config.replacementFirst then admitAtOnce p e (s.setUnit p (withoutStale e.id.source (s.unit p)))
      else owePlacement p e (runAdmission p (s.setUnit p (withoutStale e.id.source (s.unit p)))) := by
  rw [takePlacement, if_pos ((attached_iff s p).2 ha)]
  exact if_pos ⟨hne, hroom⟩

theorem takePlacement_turned {p : Port} {e : Placement} {s : State} (ha : (s.port p).pstate ≠ .attached) :
    takePlacement p e s = s.send [turnedBack p e] := by
  rw [takePlacement, if_neg fun h => ha ((attached_iff s p).1 h)]

/-- Settles O33, by the port's state, what is owed, and the room in the queue; where a replacement frees an entry, for either
value of log 9. -/
theorem placementArrives : Obligations.PlacementArrives := by
  unfold Obligations.PlacementArrives
  intro p e s hc d kept owedKept reports
  refine ⟨fun ha ho hroom => ?_, fun ha hfull => ?_, fun ha hne hroom => ?_, fun ha => ?_⟩
  · exact exec_onUnit rfl hc (takePlacement_admitted (s := s.arrive _) ha ho hroom)
  · exact exec_onUnit (sent := []) rfl hc ((takePlacement_owed (s := s.arrive _) ha hfull).trans (State.send_nil _).symm)
  · intro atOnce filled last
    have hact := takePlacement_replaces (s := s.arrive (.placement p e)) (e := e) ha hne hroom
    cases hf : Config.replacementFirst with
    | true =>
      rw [hf, if_pos rfl, admitAtOnce_setUnit] at hact
      obtain ⟨t, ht, hunit, hothers, hdone⟩ := exec_onUnit rfl hc hact
      exact ⟨t, _, ht, hothers, hdone, .inl ⟨hunit, rfl⟩⟩
    | false =>
      rw [hf, if_neg Bool.false_ne_true, runAdmission_setUnit, owePlacement_sent] at hact
      obtain ⟨t, ht, hunit, hothers, hdone⟩ := exec_onUnit rfl hc hact
      exact ⟨t, _, ht, hothers, hdone, .inr ⟨hunit, rfl⟩⟩
  · refine exec_sends rfl hc ((takePlacement_turned (s := s.arrive _) ha).trans ?_)
    rw [turnedBack]
    cases e.id.kind <;> rfl

/-! ### Deliveries that end without DONE (R113, R116) -/

theorem takeRemoval_held {p : Port} {k : ServiceSlotId} {r : ServiceRecord} {s : State} (hk : (s.unit p).slot k = .held r)
    (honly : ∀ j r', (s.unit p).slot j = .held r' → r'.source = r.source → r'.ref = r.ref → j = k) :
    takeRemoval p r.source r.ref s = s.setUnit p
      { (s.unit p).setSlot k .free with revoked := enterRevoked (s.unit p).revoked r.seq } := by
  have hfind : findHeld (s.unit p) (fun x => x.source == r.source && x.ref == r.ref) = some (k, r) :=
    findHeld_only hk (by simp) fun j r' hj ht => by
      simp only [Bool.and_eq_true, beq_iff_eq] at ht
      exact honly j r' hj ht.1 ht.2
  simp only [takeRemoval, hfind]

theorem takeRemoval_none {p : Port} {i : SourceId} {ref : Nat} {s : State}
    (h : ∀ k r, (s.unit p).slot k = .held r → ¬ (r.source = i ∧ r.ref = ref)) :
    takeRemoval p i ref s = s.setUnit p { s.unit p with
      claims := (s.unit p).claims.map fun c =>
        if c.entry.id.source = i ∧ c.entry.id.ref = ref then { c with removal := true } else c } := by
  have hfind : findHeld (s.unit p) (fun x => x.source == i && x.ref == ref) = none :=
    findHeld_none fun k r hk => Bool.eq_false_iff.2 fun ht => h k r hk (by simpa using ht)
  simp only [takeRemoval, hfind]

theorem expireService_reached {p : Port} {k : ServiceSlotId} {r : ServiceRecord} {deadline : Time} {s : State}
    (hk : (s.unit p).slot k = .held r) (hd : r.deadline = some deadline) (hr : reached s.time deadline = true)
    (ha : (s.port p).pstate = .attached) :
    expireService p k s = (s.setUnit p
      { (s.unit p).setSlot k .free with
        revoked := enterRevoked (s.unit p).revoked r.seq
        notices := addNotice s.time .revoked (.source r.source) (s.unit p).notices }).send
      [.revokedReport r.source p r.ref r.kind] := by
  have hatt (x : DeliveryUnit) : attached (s.setUnit p x) p = true := (attached_iff _ p).2 ha
  simp only [expireService, hk, hd, hr, if_true, takeNotice, hatt, State.setUnit_unit_same, State.setUnit_setUnit,
    State.setUnit_time, DeliveryUnit.setSlot_notices]

theorem expireService_ahead {p : Port} {k : ServiceSlotId} {r : ServiceRecord} {s : State}
    (hk : (s.unit p).slot k = .held r) (h : ∀ deadline, r.deadline = some deadline → reached s.time deadline = false) :
    expireService p k s = s := by
  simp only [expireService, hk]
  cases hd : r.deadline with
  | none => rfl
  | some deadline => simp [h deadline hd]

/-- Settles O37, by the row and by what the slots hold. -/
theorem deliveriesEndWithoutDone : Obligations.DeliveriesEndWithoutDone := by
  unfold Obligations.DeliveriesEndWithoutDone
  constructor
  · intro p k r s hc hk listed
    refine ⟨fun deadline hd hr ha => ?_, fun h => ?_, fun honly => ?_⟩
    · exact exec_onUnit rfl hc (expireService_reached (s := s.arrive _) hk hd hr ha)
    · exact exec_ignored rfl hc (expireService_ahead (s := s.arrive _) hk h)
    · refine exec_onUnit (sent := []) rfl hc ?_
      rw [takeRemoval_held (s := s.arrive _) hk honly, State.send_nil]
      rfl
  · intro p i ref s hc h
    refine exec_onUnit (sent := []) rfl hc ?_
    rw [takeRemoval_none (s := s.arrive _) h, State.send_nil]
    rfl

/-! ### The answers to claims (R72, R73, R107, R117, R180) -/

/-- A message whose act changes a Delivery Unit and its port's record and sends messages. -/
theorem exec_onUnitAndPort {c : Instr} {act : State → State} {sent : List Instr} {s : State} {p : Port} {d : DeliveryUnit}
    {q : PortRecord} (ha : eventAct c = some act) (hc : s.crst = false)
    (h : act (s.arrive c) = (((s.arrive c).setUnit p d).setPort p q).send sent) :
    ∃ t, exec c s = .next t ∧ t.unit p = d ∧ t.port p = q ∧ otherUnits p s t ∧ otherPorts p s t ∧
      eventDone c sent [.units, .ports] s t := by
  obtain ⟨ht, hd⟩ := exec_changes (sent := sent) (changed := [.units, .ports]) ha hc (by rw [h]; simp [sameBut_iff])
    (by rw [h]; simp)
  refine ⟨_, ht, ?_, ?_, fun m hm => ?_, fun m hm => ?_, hd⟩ <;> rw [h]
  · simp
  · simp
  · simp [State.setUnit_unit_ne, hm]
  · simp [State.setPort_port_ne, hm]

/-- The record of a port whose TAKE, its frame in progress, is answered. -/
def takeReplied (p : Port) (f : Frame) (a : Answer) (q : PortRecord) : PortRecord :=
  { q with
    running := none, frames := q.frames + 1
    frame := some (.answering { f with
      response := if f.clocked = 0 then driven p q a else notReadyFill a.data.length, awaiting := false })
    store := some { code := 0x11#8, args := [], status := a.status, data := a.data } }

theorem settleTake_eq {p : Port} {id : EntryId} {f : Frame} {a : Answer} {s : State}
    (hrun : (s.port p).running = some id) (hf : (s.port p).frame = some (.answering f)) (haw : f.awaiting = true)
    (hh : (s.port p).held = []) : settleTake p id a s = s.setPort p (takeReplied p f a (s.port p)) := by
  have hframe : frameAnswered p (s.port p) a =
      some (.answering { f with response := responseOf p (s.port p) f a, awaiting := false }) := by
    simp only [frameAnswered, hf, haw, hh, List.isEmpty_nil, Bool.and_self, if_true]
  have hrec : answered (.take p) p a (s.port p) =
      { s.port p with
        frame := some (.answering { f with response := responseOf p (s.port p) f a, awaiting := false })
        frames := (s.port p).frames + 1
        store := some { code := 0x11#8, args := [], status := a.status, data := a.data } } := by
    rw [answered, hframe, if_neg (by simp)]
    rfl
  rw [settleTake, if_pos hrun]
  simp only [answer, hrec, State.setPort_port_same, State.setPort_setPort]
  rw [handNext_nothing (by rw [State.setPort_port_same]; exact hh)]
  rfl

theorem settleEvicted_eq {p : Port} {id : EntryId} {f : Frame} {s : State}
    (hrun : (s.port p).running = some id) (hf : (s.port p).frame = some (.answering f)) (hh : (s.port p).held = []) :
    settleEvicted p id s = s.setPort p { s.port p with
      running := none, frame := some (.answering { f with awaiting := false })
      store := some { code := 0x11#8, args := [], status := .evicted, data := zeros 11 } } := by
  simp only [settleEvicted, hrun, if_true, hh, List.isEmpty_nil, hf]
  rw [handNext_nothing (by rw [State.setPort_port_same])]
  rfl

/-- The answer of a claim finds it by its identity. -/
theorem takeAnswer_found {p : Port} {c : Claim} {round : Nat} {granted : Bool} {s : State}
    (hfind : (s.unit p).claims.find? (·.entry.id = c.entry.id) = some c) (hk : c.entry.id.kind = .offer round) :
    takeAnswer p c.entry.id.source c.entry.id.ref round granted s =
      let u := s.setUnit p { s.unit p with claims := (s.unit p).claims.erase c }
      if c.ended then answerEnded p c granted u
      else if granted then (if c.removal then answerRemoved p c u else answerGranted p c u) else answerLost p c u := by
  have hid : ({ source := c.entry.id.source, kind := .offer round, ref := c.entry.id.ref } : EntryId) = c.entry.id := by
    rw [← hk]
  simp only [takeAnswer, hid, hfind]

theorem answerGranted_eq {p : Port} {c : Claim} {f : Frame} {s : State} (h : (s.port p).running = some c.entry.id)
    (hf : (s.port p).frame = some (.answering f)) (haw : f.awaiting = true) (hh : (s.port p).held = []) (d : DeliveryUnit) :
    answerGranted p c (s.setUnit p d) = (s.setUnit p (enterService s.time c.slot .shared c.entry d)).setPort p
      (takeReplied p f (grantAnswer c.entry (assignedSeq d)) (s.port p)) := by
  rw [answerGranted, settleTake_eq (by exact h) (by exact hf) haw (by exact hh)]
  simp only [State.setUnit_unit_same, State.setUnit_setUnit, State.setUnit_time, State.setUnit_port]

theorem answerRemoved_eq {p : Port} {c : Claim} {f : Frame} {s : State} (h : (s.port p).running = some c.entry.id)
    (hf : (s.port p).frame = some (.answering f)) (haw : f.awaiting = true) (hh : (s.port p).held = []) (d : DeliveryUnit) :
    answerRemoved p c (s.setUnit p d) = (s.setUnit p { d.setSlot c.slot .free with
        seq := assignedSeq d, gateOpen := gateAfterTake d, revoked := enterRevoked d.revoked (assignedSeq d) }).setPort p
      (takeReplied p f (grantAnswer c.entry (assignedSeq d)) (s.port p)) := by
  rw [answerRemoved, settleTake_eq (by exact h) (by exact hf) haw (by exact hh)]
  simp only [State.setUnit_unit_same, State.setUnit_setUnit, State.setUnit_port]

theorem answerLost_eq {p : Port} {c : Claim} {f : Frame} {s : State} (h : (s.port p).running = some c.entry.id)
    (hf : (s.port p).frame = some (.answering f)) (haw : f.awaiting = true) (hh : (s.port p).held = []) (d : DeliveryUnit) :
    answerLost p c (s.setUnit p d) = (s.setUnit p (d.setSlot c.slot .free)).setPort p
      (takeReplied p f (lostAnswer c.entry) (s.port p)) := by
  rw [answerLost, settleTake_eq (by exact h) (by exact hf) haw (by exact hh)]
  simp only [State.setUnit_unit_same, State.setUnit_setUnit, State.setUnit_port]

theorem answerEnded_eq {p : Port} {c : Claim} {f : Frame} {granted : Bool} {s : State}
    (h : (s.port p).running = some c.entry.id) (hf : (s.port p).frame = some (.answering f)) (hh : (s.port p).held = [])
    (d : DeliveryUnit) :
    answerEnded p c granted (s.setUnit p d) = ((s.setUnit p (d.setSlot c.slot .free)).setPort p { s.port p with
        running := none, frame := some (.answering { f with awaiting := false })
        store := some { code := 0x11#8, args := [], status := .evicted, data := zeros 11 } }).send
      (if granted then [.revokedReport c.entry.id.source p c.entry.id.ref .shared] else []) := by
  cases granted with
  | true =>
    rw [answerEnded, if_pos rfl, if_pos rfl, settleEvicted_eq (by exact h) (by exact hf) (by exact hh)]
    simp only [State.setUnit_unit_same, State.setUnit_setUnit]
    rfl
  | false =>
    rw [answerEnded, if_neg Bool.false_ne_true, if_neg Bool.false_ne_true,
      settleEvicted_eq (by exact h) (by exact hf) (by exact hh)]
    simp only [State.setUnit_unit_same, State.setUnit_setUnit, State.send_nil]
    rfl

/-- Settles O39, by the claim's marks and the answer. -/
theorem claimAnswers : Obligations.ClaimAnswers := by
  unfold Obligations.ClaimAnswers
  constructor
  · rintro p c f round s hc ⟨hfind, hrun, hf, haw, hh⟩ he hk i d n replies okRecord
    have hseq : assignedSeq { d with claims := d.claims.erase c } = n := assignedSeq_claims ..
    refine ⟨fun hr => ?_, fun hr => ?_, ?_⟩
    · refine exec_onUnitAndPort (sent := []) rfl hc ?_
      rw [takeAnswer_found (s := s.arrive _) hfind hk]
      simp only [he, hr, Bool.false_eq_true, if_false, if_true]
      rw [answerGranted_eq (s := s.arrive _) hrun hf haw hh, State.send_nil, enterService]
      simp only [State.arrive_unit, State.arrive_time, State.arrive_port]
      rw [hseq]
      rfl
    · refine exec_onUnitAndPort (sent := []) rfl hc ?_
      rw [takeAnswer_found (s := s.arrive _) hfind hk]
      simp only [he, hr, Bool.false_eq_true, if_false, if_true]
      rw [answerRemoved_eq (s := s.arrive _) hrun hf haw hh, State.send_nil]
      simp only [State.arrive_unit, State.arrive_port]
      rw [hseq]
      rfl
    · refine exec_onUnitAndPort (sent := []) rfl hc ?_
      rw [takeAnswer_found (s := s.arrive _) hfind hk]
      simp only [he, Bool.false_eq_true, if_false]
      rw [answerLost_eq (s := s.arrive _) hrun hf haw hh, State.send_nil]
      rfl
  · rintro p c f round granted s hc ⟨hfind, hrun, hf, haw, hh⟩ he hk
    refine exec_onUnitAndPort rfl hc ?_
    rw [takeAnswer_found (s := s.arrive _) hfind hk]
    simp only [he, if_true]
    rw [answerEnded_eq (s := s.arrive _) hrun hf hh]
    rfl

end Sys2Proof.Machine
end

section
/-! PROOFS. What a command frame answers, from what its body does; the observation commands, PEEK and REPEAT, DONE and the
settings of a Delivery Unit. -/

namespace Sys2Proof.Machine

/-! ### Commands taken at once -/

/-- A command whose body changes nothing is answered. -/
theorem exec_answers {c : Instr} {p : Port} {a : Access} {body : Body} {s : State} {ans : Answer}
    (hx : exec c s = frameStep c p a body s) (h : frameReady p s = true) (hc : portCheck a (s.port p).pstate = none)
    (hb : body (beginFrame c p s) = (beginFrame c p s, some ans)) :
    ∃ t, exec c s = .next t ∧ repliedWith c p ans [] s t := by
  rw [hx]
  exact frameStep_unchanged h hc hb

/-- A command that its block refuses. -/
theorem exec_refuses {c : Instr} {p : Port} {a : Access} {body : Body} {st : Status} {s : State}
    (hx : exec c s = frameStep c p a body s) (h : frameReady p s = true) (hc : portCheck a (s.port p).pstate = none)
    (hb : body (beginFrame c p s) = refuse c st (beginFrame c p s)) : refusedWith c p st s :=
  exec_answers hx h hc hb

/-- A command whose body leaves the ports' records alone is answered, with what its body did. -/
theorem exec_does {c : Instr} {p : Port} {a : Access} {body : Body} {s : State} (u : State) {ans : Answer}
    (changed : List Part) (hx : exec c s = frameStep c p a body s) (h : frameReady p s = true)
    (hc : portCheck a (s.port p).pstate = none) (hb : body (beginFrame c p s) = (u, some ans))
    (hp : u.ports = (beginFrame c p s).ports) (hs : sameBut changed (beginFrame c p s) u) :
    exec c s = .next (judgeAttn (u.setPort p (replied c p ans (s.port p)))) ∧
      repliedWith c p ans changed s (judgeAttn (u.setPort p (replied c p ans (s.port p)))) := by
  rw [hx]
  exact frameStep_replied u changed h hc hb hp hs

/-- A command whose body writes the Delivery Unit of a port and sends messages. -/
theorem exec_writesUnit {c : Instr} {p q : Port} {a : Access} {body : Body} {s : State} {ans : Answer} {d : DeliveryUnit}
    {sent : List Instr} (hx : exec c s = frameStep c p a body s) (h : frameReady p s = true)
    (hc : portCheck a (s.port p).pstate = none)
    (hb : body (beginFrame c p s) = (((beginFrame c p s).setUnit q d).send sent, some ans)) :
    ∃ t, exec c s = .next t ∧ t.unit q = d ∧ otherUnits q s t ∧ t.inFlight = s.inFlight ++ sent ∧
      repliedWith c p ans [.units, .messages] s t := by
  obtain ⟨ht, hr⟩ := exec_does _ [.units, .messages] hx h hc hb rfl (by simp [sameBut_iff])
  exact ⟨_, ht, by simp, fun m hm => by simp [State.setUnit_unit_ne, hm], by simp, hr⟩

/-- A command whose body sets something in the Delivery Unit of a port. -/
theorem exec_setsUnit {c : Instr} {p q : Port} {a : Access} {body : Body} {s : State} {ans : Answer} {d : DeliveryUnit}
    (hx : exec c s = frameStep c p a body s) (h : frameReady p s = true) (hc : portCheck a (s.port p).pstate = none)
    (hb : body (beginFrame c p s) = ((beginFrame c p s).setUnit q d, some ans)) :
    ∃ t, exec c s = .next t ∧ t.unit q = d ∧ otherUnits q s t ∧ repliedWith c p ans [.units] s t := by
  obtain ⟨ht, hr⟩ := exec_does _ [.units] hx h hc hb rfl (by simp [sameBut_iff])
  exact ⟨_, ht, by simp, fun m hm => by simp [State.setUnit_unit_ne, hm], hr⟩

/-! ### STATUS, READ_LINES, READ_TIME and READ_IDENT (R41, R137, R171, R184) -/

theorem portStatesByte_eq (s : State) : portStatesByte s =
    portStateCode (s.port 0).pstate ||| portStateCode (s.port 1).pstate <<< 2 |||
      portStateCode (s.port 2).pstate <<< 4 ||| portStateCode (s.port 3).pstate <<< 6 := by
  simp [portStatesByte, allPorts]

/-- A bit of the word of the lines that pass a test. -/
theorem foldl_setLine_bit (test : LineId → Bool) (lines : List LineId) (w : BitVec 32) (m : LineId) :
    (lines.foldl (fun w l => if test l then w ||| (1#32 <<< l.val) else w) w).getLsbD m.val =
      (w.getLsbD m.val || (decide (m ∈ lines) && test m)) := by
  induction lines generalizing w with
  | nil => simp
  | cons l lines ih =>
    rw [List.foldl_cons, ih]
    by_cases ht : test l = true
    · rw [if_pos ht, BitVec.getLsbD_or, lineBit]
      by_cases hml : m = l
      · simp [hml, ht]
      · simp [hml]
    · have hml : test m = true → m ≠ l := fun hm he => ht (he ▸ hm)
      rw [if_neg ht]
      cases hm : test m with
      | false => simp
      | true => simp [hml hm]

theorem settledLevels_bit (s : State) (l : LineId) : (settledLevels s).getLsbD l.val = (s.line l).settled := by
  rw [settledLevels, foldl_setLine_bit]
  simp

/-- Settles O40, by the data bytes of each command. -/
theorem blockStateShown : Obligations.BlockStateShown := by
  unfold Obligations.BlockStateShown
  refine ⟨rfl, fun p s h => ⟨?_, fun he => ⟨?_, ?_, ?_⟩⟩⟩
  · refine exec_answers rfl h (portCheck_any _) ?_
    have hdata : statusData p (beginFrame (.status p) p s) = statusData p s := by
      simp [statusData, portStatesByte_eq]
    rw [statusBody, readAnswer, hdata, statusData, portStatesByte_eq]
    cases s.steering <;> cases s.runState <;> rfl
  · obtain ⟨t, ht, hr⟩ := exec_answers (c := .readLines p) rfl h (portCheck_observation he) rfl
    exact ⟨t, settledLevels s, ht, settledLevels_bit s, hr⟩
  · exact exec_answers rfl h (portCheck_observation he) rfl
  · refine exec_answers rfl h (portCheck_observation he) ?_
    rw [readIdentBody, readAnswer, identData, beginFrame_cause]
    cases s.cause <;> rfl

/-! ### READ_OFFER, READ_SLOTS and READ_SOURCE (R104, R122, R153, R154, R182 to R184) -/

theorem sourceFlags_eq (r : Source) : sourceFlags r =
    flagBit r.lock 0 ||| flagBit r.enable 1 ||| flagBit r.overrun 2 ||| flagBit (firstPending r).isSome 3 |||
      flagBit r.batch.isSome 4 ||| flagBit (r.batch.any (·.overrun)) 5 := by
  rw [sourceFlags]
  cases r.batch <;> rfl

theorem heldMark_eq : ∀ limited : Bool, 2#8 ||| flagBit limited 7 = if limited then 0x82#8 else 2#8 := by decide

/-- Settles O41, by the data bytes of each command. -/
theorem slotsAndSourcesShown : Obligations.SlotsAndSourcesShown := by
  unfold Obligations.SlotsAndSourcesShown
  refine ⟨⟨rfl, rfl, rfl, rfl, rfl, rfl, rfl, fun _ => rfl, by decide, fun _ => rfl, fun _ => rfl⟩,
    fun p s h he => ⟨fun k => ?_, fun b hb => ?_, ?_, rfl, fun _ => rfl, fun r => ?_⟩,
    fun p s h he => ⟨fun i => ?_, fun b hb => ?_⟩⟩
  · refine exec_answers rfl h (portCheck_observation he) ?_
    simp only [readOfferBody, slotOf_ofNat, beginFrame_offer]
    cases s.offer k <;> rfl
  · exact exec_refuses rfl h (portCheck_observation he) (by simp only [readOfferBody, slotOf_none hb])
  · refine exec_answers rfl h (portCheck_observation he) ?_
    simp only [readSlotsBody, beginFrame_unit, readAnswer, slotsData, allServiceSlots, padTo]
    simp
    rfl
  · rw [slotBytes, heldMark_eq]
    rfl
  · refine exec_answers rfl h (portCheck_observation he) ?_
    simp only [readSourceBody, sourceOf_ofNat, beginFrame_src, sourceData, sourceFlags_eq, routeBlock, blockBytes]
    cases (s.src i).routing.kind <;> cases (s.src i).batch <;> rfl
  · exact exec_refuses rfl h (portCheck_observation he) (by simp only [readSourceBody, sourceOf_none hb])

/-! ### PEEK and REPEAT (R68, R69, R77, R179, R182, R185) -/

theorem deliveryRecord_flags (overrun : Bool) (raiser : Port) :
    flagBit overrun 7 ||| (flagBit true 6 ||| byteOf raiser.val) =
      (if overrun then 0xC0#8 else 0x40#8) + BitVec.ofNat 8 raiser.val := by
  revert overrun raiser
  decide

/-- Settles O42, by the layouts of the records and the answer of each command. -/
theorem peekAndRepeat : Obligations.PeekAndRepeat := by
  unfold Obligations.PeekAndRepeat
  refine ⟨⟨fun kind i seq f => ⟨fun hp => ?_, fun w hp => ?_⟩, fun n => ?_, rfl, fun _ => rfl, rfl, rfl⟩,
    fun p s h => ⟨fun ha => ?_, ?_⟩⟩
  · simp only [deliveryRecord, hp]
    cases f.overrun <;> rfl
  · simp only [deliveryRecord, hp, deliveryRecord_flags]
    rfl
  · rw [noticeRecord]
    cases n.subject <;> rfl
  · refine exec_answers rfl h (portCheck_session ha) ?_
    simp only [peekBody, peekAnswer, beginFrame_unit]
    cases firstVisible (s.unit p) with
    | none => rfl
    | some item => cases item <;> rfl
  · obtain ⟨t, ht, hr⟩ := exec_answers (c := .repeatLast p) (ans := repeatAnswer (s.port p).store) rfl h (portCheck_any _)
      (by rw [repeatBody, beginFrame_store])
    refine ⟨t, ht, ?_, ?_⟩
    · obtain ⟨hport, -⟩ := hr
      rw [hport, replied, if_pos rfl]
    · cases hst : (s.port p).store with
      | none => rw [hst] at hr; exact hr
      | some r => rw [hst] at hr; exact hr

/-! ### DONE (R110, R111) -/

theorem doneBody_held {p : Port} {seq : Byte} {k : ServiceSlotId} {r : ServiceRecord} {s : State}
    (hk : (s.unit p).slot k = .held r) (hr : r.seq = seq)
    (honly : ∀ j r', (s.unit p).slot j = .held r' → r'.seq = seq → j = k) :
    doneBody p seq s = accept ((s.setUnit p ((s.unit p).setSlot k .free)).send [.doneReport r.source p r.ref]) := by
  have hfind : findHeld (s.unit p) (fun x => x.seq == seq) = some (k, r) :=
    findHeld_only hk (by simp [hr]) fun j r' hj ht => honly j r' hj (by simpa using ht)
  simp only [doneBody, hfind]

theorem doneBody_unheld {p : Port} {seq : Byte} {s : State} (h : ∀ k r, (s.unit p).slot k = .held r → r.seq ≠ seq) :
    doneBody p seq s =
      if (s.unit p).revoked.contains seq then
        (s.setUnit p { s.unit p with revoked := (s.unit p).revoked.erase seq }, some { status := .late, data := [] })
      else refuse (.doneSeq p seq) .notHeld s := by
  have hfind : findHeld (s.unit p) (fun x => x.seq == seq) = none :=
    findHeld_none fun k r hk => by simpa using h k r hk
  simp only [doneBody, hfind]

/-- Settles O45, by where the number is. -/
theorem doneCompletesDelivery : Obligations.DoneCompletesDelivery := by
  unfold Obligations.DoneCompletesDelivery
  refine fun p seq s h ha => ⟨fun k r hk hr honly => ?_, fun hnot => ⟨fun older newer hl hold => ?_, fun hl => ?_⟩⟩
  · exact exec_writesUnit rfl h (portCheck_session ha) (doneBody_held (s := beginFrame _ p s) hk hr honly)
  · refine exec_setsUnit rfl h (portCheck_session ha) ?_
    have hin : ((beginFrame (.doneSeq p seq) p s).unit p).revoked.contains seq = true := by
      rw [beginFrame_unit, hl]
      simp
    have herase : (s.unit p).revoked.erase seq = older ++ newer := by
      rw [hl, List.erase_append_right _ hold, List.erase_cons_head]
    rw [doneBody_unheld (s := beginFrame _ p s) hnot, if_pos hin, beginFrame_unit, herase]
  · have hin : ¬ ((beginFrame (.doneSeq p seq) p s).unit p).revoked.contains seq = true := by
      rw [beginFrame_unit]
      simpa using hl
    exact exec_refuses rfl h (portCheck_session ha) (by rw [doneBody_unheld (s := beginFrame _ p s) hnot, if_neg hin])

/-! ### HOLD, RESUME, SET_MASK, SET_GATE and SET_LIMIT (R61, R78, R79, R108) -/

/-- Settles O46, command by command. -/
theorem unitSettings : Obligations.UnitSettings := by
  unfold Obligations.UnitSettings
  intro p s h ha sets
  have hc := portCheck_session ha
  refine ⟨exec_setsUnit rfl h hc rfl, exec_setsUnit rfl h hc rfl, fun mask => exec_setsUnit rfl h hc rfl,
    exec_setsUnit rfl h hc rfl, exec_setsUnit rfl h hc rfl, fun mode hm => exec_refuses rfl h hc ?_,
    fun ms hm => exec_setsUnit rfl h hc ?_, fun ms hm => exec_refuses rfl h hc ?_⟩
  · have h0 : mode ≠ 0#8 := by rintro rfl; simp at hm
    have h1 : mode ≠ 1#8 := by rintro rfl; simp at hm
    rw [setGateBody, if_neg h0, if_neg h1]
  · exact if_pos hm
  · exact if_neg (Nat.not_le.2 hm)

end Sys2Proof.Machine
end

section
/-! PROOFS. Sessions: ATTACH and DETACH with the order of the handback, EVICT, and TAKE. -/

namespace Sys2Proof.Machine

/-! ### The order of the handback (R60, R63, R129, R130) -/

/-- A list made of pieces of which one alone is not empty. -/
theorem flatMap_only {α β : Type} {f : α → List β} {x : α} {l : List α} (hl : l.Nodup) (hx : x ∈ l)
    (h : ∀ y ∈ l, y ≠ x → f y = []) : l.flatMap f = f x := by
  induction l with
  | nil => cases hx
  | cons y l ih =>
    obtain ⟨hy, hl⟩ := List.nodup_cons.1 hl
    rw [List.flatMap_cons]
    by_cases e : y = x
    · subst e
      have hrest : l.flatMap f = [] :=
        List.flatMap_eq_nil_iff.2 fun z hz => h z (List.mem_cons_of_mem _ hz) fun e => hy (e ▸ hz)
      rw [hrest, List.append_nil]
    · rw [h y List.mem_cons_self e, List.nil_append]
      exact ih hl ((List.mem_cons.1 hx).resolve_left (Ne.symm e)) fun z hz => h z (List.mem_cons_of_mem _ hz)

theorem queueOrder_ascending (entries : List Placement) :
    (queueOrder entries).Pairwise fun a b => a.priority ≤ b.priority := by
  rw [queueOrder, List.pairwise_flatMap]
  constructor
  · intro q _
    refine List.Pairwise.imp_of_mem (R := fun _ _ => True) (fun ha hb _ => ?_) (List.pairwise_of_forall fun _ _ => trivial)
    rw [of_decide_eq_true (List.mem_filter.1 ha).2, of_decide_eq_true (List.mem_filter.1 hb).2]
  · refine List.Pairwise.imp (R := (· < ·)) (fun {q q'} hlt a ha b hb => ?_) (by decide)
    rw [of_decide_eq_true (List.mem_filter.1 ha).2, of_decide_eq_true (List.mem_filter.1 hb).2]
    exact hlt.le

theorem mem_allPriorities : ∀ q : Priority, q ∈ allPriorities := by decide

theorem queueOrder_filter (entries : List Placement) (q : Priority) :
    (queueOrder entries).filter (·.priority = q) = entries.filter (·.priority = q) := by
  have hpiece : ∀ y : Priority, (entries.filter (·.priority = y)).filter (·.priority = q) =
      if y = q then entries.filter (·.priority = q) else [] := by
    intro y
    rw [List.filter_filter]
    split
    · next h =>
      subst h
      simp
    · next h =>
      refine List.filter_eq_nil_iff.2 fun a _ => ?_
      simp only [Bool.and_eq_true, decide_eq_true_eq]
      rintro ⟨hq, hy⟩
      exact h (hy.symm.trans hq)
  rw [queueOrder, List.filter_flatMap, flatMap_only (x := q) (by decide) (mem_allPriorities q) fun y _ hy => by
    rw [hpiece, if_neg hy], hpiece, if_pos rfl]

theorem owedOrder_next {now : Time} {owed : List Owed} {o : Owed} (h : bestOwed now owed = some o) :
    owedOrder now owed.length owed = o :: owedOrder now (owed.erase o).length (owed.erase o) := by
  have hlen : owed.length = (owed.erase o).length + 1 := by
    have := List.length_erase_of_mem (bestOwed_mem h)
    have := List.length_pos_of_mem (bestOwed_mem h)
    omega
  rw [hlen, owedOrder, h]

theorem handbackReports_eq (p : Port) (e : Placement) : handbackReports p e =
    match e.id.kind with
    | .offer round => [.candidateLoss e.id.source e.id.ref round p, .withdrawalReport e.id.source p e.id.ref]
    | _ => [.withdrawalReport e.id.source p e.id.ref] := by
  rw [handbackReports, turnedBack]
  cases e.id.kind <;> rfl

theorem leaveSession_attached {p : Port} {next : PortState} {s : State} (h : (s.port p).pstate = .attached) :
    leaveSession p next s = ((s.setPort p { s.port p with pstate := next }).setUnit p (unitAfterHandback (s.unit p))).send
      (handbackMessages s.time p (s.unit p)) := if_pos h

theorem leaveSession_absent {p : Port} {next : PortState} {s : State} (h : (s.port p).pstate ≠ .attached) :
    leaveSession p next s = s.setPort p { s.port p with pstate := next } := if_neg h

/-! ### ATTACH and DETACH (R126, R128, R129) -/

/-- A command whose body changes the state and the tag of its own port, and other parts, is answered. -/
theorem exec_answersOwn {c : Instr} {p : Port} {a : Access} {body : Body} {s u : State} {ans : Answer} {q : PortRecord}
    (hx : exec c s = frameStep c p a body s) (h : frameReady p s = true) (hc : portCheck a (s.port p).pstate = none)
    (hb : body (beginFrame c p s) = (u, some ans)) (hu : u.port p = { q with frame := some (awaitedFrame c) })
    (hq : q.held = []) : exec c s = .next (judgeAttn (u.setPort p (replied c p ans q))) := by
  rw [hx]
  exact frameStep_answered h hc hb hu hq

theorem beginFrame_port (c : Instr) (p : Port) (s : State) :
    (beginFrame c p s).port p = { s.port p with frame := some (awaitedFrame c) } := State.setPort_port_same _ _ _

theorem attachBody_eq (p : Port) (tag : Word) (s : State) : attachBody p tag s =
    accept (((s.setPort p { s.port p with pstate := .attached, tag := tag }).setUnit p
      { s.unit p with seq := 0#8, revoked := [] }).send [.attachReport p]) := rfl

/-- Settles O43, from the orders of the handback and what each body leaves. -/
theorem sessionsBeginAndEnd : Obligations.SessionsBeginAndEnd := by
  unfold Obligations.SessionsBeginAndEnd
  refine ⟨⟨fun entries => ⟨queueOrder_ascending entries, queueOrder_filter entries⟩, fun _ => rfl,
    fun _ _ _ => owedOrder_next, handbackReports_eq⟩, fun p s h => ?_⟩
  obtain ⟨-, -, -, -, -, hheld, -⟩ := (frameReady_iff p s).1 h
  refine ⟨fun tag hd => ?_, fun ha => ?_⟩
  · let c := Instr.attach p tag
    have hu : (((beginFrame c p s).setPort p { (beginFrame c p s).port p with pstate := .attached, tag := tag }).setUnit p
        { s.unit p with seq := 0#8, revoked := [] }).port p =
        { { s.port p with pstate := .attached, tag := tag } with frame := some (awaitedFrame c) } := by
      rw [State.setUnit_port, State.setPort_port_same, beginFrame_port]
    refine ⟨_, exec_answersOwn (c := c) (q := { s.port p with pstate := .attached, tag := tag }) rfl h (by rw [hd]; rfl)
      (attachBody_eq p tag _) hu hheld, by rw [judgeAttn_port, State.setPort_port_same]; rfl, fun q hq => ?_, by simp,
      fun q hq => ?_, by simp, judgeAttn_attnLaw _, ?_⟩
    · simp [State.setPort_port_ne, hq, beginFrame_port_ne]
    · simp [State.setUnit_unit_ne, hq]
    · simp [sameBut_iff, beginFrame]
  · let c := Instr.detach p
    have hleave := leaveSession_attached (p := p) (next := .detached) (s := beginFrame c p s)
      (by rw [beginFrame_pstate]; exact ha)
    obtain ⟨-, hport, -, -⟩ := leaveSession_frame p .detached (beginFrame c p s)
    have hexec := exec_answersOwn (c := c) (ans := okAnswer) (q := { s.port p with pstate := .detached }) rfl h
      (portCheck_session ha) rfl (hport.trans (by rw [beginFrame_port])) hheld
    rw [hleave] at hexec
    refine ⟨_, hexec, by rw [judgeAttn_port, State.setPort_port_same]; rfl, fun q hq => ?_, fun q hq => ?_, ?_⟩
    · simp [State.setPort_port_ne, hq, beginFrame_port_ne]
    · simp [State.setUnit_unit_ne, hq]
    · rw [judgeAttn_unit, State.setPort_unit, State.send_unit, State.setUnit_unit_same]
      refine ⟨rfl, rfl, rfl, rfl, fun k => ?_, rfl, rfl, rfl, rfl, rfl, rfl, ?_, judgeAttn_attnLaw _, ?_⟩
      · exact slot_unitAfterHandback (s.unit p) k
      · rw [judgeAttn_inFlight]
        rfl
      · simp [sameBut_iff, beginFrame]

/-! ### EVICT (R133, R161) -/

theorem evictBody_steered {p : Port} {b : Byte} {s : State} (hs : s.steering = some p) :
    evictBody p b s = match portOf b with
      | none => refuse (.evict p b) .badArg s
      | some v => if s.steering = some v then refuse (.evict p b) .badArg s else accept (leaveSession v .evicted s) :=
  steered_ok hs

theorem evictBody_other {p v : Port} {s : State} (hs : s.steering = some p) (hv : v ≠ p) :
    evictBody p (BitVec.ofNat 8 v.val) s = accept (leaveSession v .evicted s) := by
  have hne : s.steering ≠ some v := by
    rw [hs]
    exact fun e => hv (Option.some.inj e).symm
  rw [evictBody_steered hs, portOf_ofNat]
  exact if_neg hne

/-- What an EVICT of another port does to the ports' records. -/
theorem exec_evict {p v : Port} {s u : State} (h : frameReady p s = true) (ha : (s.port p).pstate = .attached)
    (hs : s.steering = some p) (hv : v ≠ p)
    (hu : u = leaveSession v .evicted (beginFrame (.evict p (BitVec.ofNat 8 v.val)) p s)) :
    ∃ t, exec (.evict p (BitVec.ofNat 8 v.val)) s = .next t ∧ t = judgeAttn (u.setPort p
        (replied (.evict p (BitVec.ofNat 8 v.val)) p { status := .ok, data := [] } (s.port p))) ∧
      t.port v = { s.port v with pstate := .evicted } ∧
      t.port p = replied (.evict p (BitVec.ofNat 8 v.val)) p { status := .ok, data := [] } (s.port p) ∧
      ∀ q, q ≠ p → q ≠ v → t.port q = s.port q := by
  obtain ⟨-, -, -, -, -, hheld, -⟩ := (frameReady_iff p s).1 h
  obtain ⟨-, hport, hports, -⟩ := leaveSession_frame v .evicted (beginFrame (.evict p (BitVec.ofNat 8 v.val)) p s)
  rw [← hu] at hport hports
  refine ⟨_, exec_answersOwn (u := u) (ans := okAnswer) (q := s.port p) rfl h (portCheck_session ha)
    (by rw [evictBody_other (s := beginFrame _ p s) hs hv, ← hu]; rfl)
    (by rw [hports p (Ne.symm hv), beginFrame_port]) hheld, rfl, ?_, ?_, fun q hqp hqv => ?_⟩
  · rw [judgeAttn_port, State.setPort_port_ne _ _ _ _ hv, hport, beginFrame_port_ne _ _ _ _ hv]
  · rw [judgeAttn_port, State.setPort_port_same]
    rfl
  · rw [judgeAttn_port, State.setPort_port_ne _ _ _ _ hqp, hports q hqv, beginFrame_port_ne _ _ _ _ hqp]

/-- Settles O52, by the state of the port that is evicted. -/
theorem evictTakesPortAway : Obligations.EvictTakesPortAway := by
  unfold Obligations.EvictTakesPortAway
  intro p v s c h ha hs hv
  refine ⟨fun hatt => ?_, fun hatt => ?_, ?_, fun x hx => ?_⟩
  · have hleave := leaveSession_attached (p := v) (next := .evicted) (s := beginFrame c p s)
      (by rw [beginFrame_pstate]; exact hatt)
    obtain ⟨t, ht, heq, hv', hp', hothers⟩ := exec_evict h ha hs hv hleave.symm
    refine ⟨t, ht, hv', hp', hothers, ?_, fun q hq => ?_, ?_, ?_, ?_⟩ <;> rw [heq]
    · simp
    · simp [State.setUnit_unit_ne, hq]
    · rw [judgeAttn_inFlight]
      rfl
    · exact judgeAttn_attnLaw _
    · simp [sameBut_iff, beginFrame]
  · have hleave := leaveSession_absent (p := v) (next := .evicted) (s := beginFrame c p s)
      (by rw [beginFrame_pstate]; exact hatt)
    obtain ⟨t, ht, heq, hv', hp', hothers⟩ := exec_evict h ha hs hv hleave.symm
    refine ⟨t, ht, hv', hp', hothers, ?_, ?_⟩ <;> rw [heq]
    · exact judgeAttn_attnLaw _
    · simp [sameBut_iff, beginFrame]
  · refine exec_refuses rfl h (portCheck_session ha) ?_
    rw [evictBody_steered (s := beginFrame _ p s) hs, portOf_ofNat]
    exact if_pos hs
  · refine exec_refuses rfl h (portCheck_session ha) ?_
    rw [evictBody_steered (s := beginFrame _ p s) hs, portOf_none hx]

/-! ### TAKE (R70, R71, R72, R79) -/

theorem takeBody_notice {p : Port} {n : Notice} {rest : List Notice} {s : State} (h : (s.unit p).notices = n :: rest) :
    takeBody p s = (s.setUnit p { s.unit p with notices := rest, gateOpen := gateAfterTake (s.unit p) },
      some (noticeAnswer n)) := by
  simp only [takeBody, firstVisible_notice h, takeNoticeItem, h, List.erase_cons_head]

theorem takeBody_empty {p : Port} {s : State} (h : firstVisible (s.unit p) = none) :
    takeBody p s = (s, some (emptyAnswer .empty)) := by
  simp only [takeBody, h]

theorem takeBody_full {p : Port} {e : Placement} {s : State} (h : firstVisible (s.unit p) = some (.entry e))
    (hk : ∀ k, (s.unit p).slot k ≠ .free) : takeBody p s = (s, some (emptyAnswer .slotsFull)) := by
  simp only [takeBody, h, lowestFreeSlot_none hk]

theorem takeBody_entry {p : Port} {e : Placement} {k : ServiceSlotId} {s : State}
    (h : firstVisible (s.unit p) = some (.entry e)) (hk : (s.unit p).slot k = .free)
    (hlow : ∀ j, j < k → (s.unit p).slot j ≠ .free) :
    takeBody p s = match e.id.kind with
      | .direct => takeDelivery p k .direct e s
      | .broadcast => takeDelivery p k .broadcast e s
      | .fallback => takeDelivery p k .fallback e s
      | .offer round => takeOffer p k round e s := by
  cases hkind : e.id.kind <;> simp only [takeBody, h, lowestFreeSlot_eq hk hlow, hkind]

/-- The unit that a delivery has entered, its entry gone. -/
def tookDelivery (now : Time) (k : ServiceSlotId) (kind : Form) (e : Placement) (d : DeliveryUnit) : DeliveryUnit :=
  { d.setSlot k (.held
      { seq := assignedSeq d, source := e.id.source, kind := kind, ref := e.id.ref, taken := now,
        deadline := serviceDeadline now d.limit }) with
    entries := d.entries.erase e, seq := assignedSeq d, gateOpen := gateAfterTake d }

theorem takeDelivery_eq (p : Port) (k : ServiceSlotId) (kind : Form) (e : Placement) (s : State) :
    takeDelivery p k kind e s =
      ((s.setUnit p (admissions s.time p (s.unit p).owed.length (tookDelivery s.time k kind e (s.unit p))).1).send
        ([.takenReport e.id.source p e.id.ref (assignedSeq (s.unit p))] ++
          (admissions s.time p (s.unit p).owed.length (tookDelivery s.time k kind e (s.unit p))).2),
        some { status := .ok, data := deliveryRecord (formCode kind) e.id.source (assignedSeq (s.unit p)) e.fields }) := by
  have henter : enterService s.time k kind e { s.unit p with entries := (s.unit p).entries.erase e } =
      tookDelivery s.time k kind e (s.unit p) := by
    rw [enterService, assignedSeq_entries]
    rfl
  have hrun := runAdmission_setUnit p (tookDelivery s.time k kind e (s.unit p))
    (s.send [.takenReport e.id.source p e.id.ref (assignedSeq (s.unit p))])
  simp only [takeDelivery, henter]
  rw [show (s.setUnit p (tookDelivery s.time k kind e (s.unit p))).send
      [.takenReport e.id.source p e.id.ref (assignedSeq (s.unit p))] =
    (s.send [.takenReport e.id.source p e.id.ref (assignedSeq (s.unit p))]).setUnit p
      (tookDelivery s.time k kind e (s.unit p)) from rfl, hrun, ← State.send_send]
  rfl

/-- The unit with a slot reserved for an offer's claim, its entry gone. -/
def claimed (k : ServiceSlotId) (e : Placement) (d : DeliveryUnit) : DeliveryUnit :=
  { d.setSlot k (.reserved e.id) with
    entries := d.entries.erase e
    claims := d.claims ++ [{ entry := e, slot := k, removal := false, ended := false }] }

theorem takeOffer_eq (p : Port) (k : ServiceSlotId) (round : Nat) (e : Placement) (s : State) :
    takeOffer p k round e s =
      (((s.setUnit p (admissions s.time p (s.unit p).owed.length (claimed k e (s.unit p))).1).send
        ([.claim p e.id.source e.id.ref round] ++
          (admissions s.time p (s.unit p).owed.length (claimed k e (s.unit p))).2)).setPort p
        { s.port p with running := some e.id }, none) := by
  have hrun := runAdmission_setUnit p (claimed k e (s.unit p)) (s.send [.claim p e.id.source e.id.ref round])
  have hto : takeOffer p k round e s =
      ((runAdmission p ((s.send [.claim p e.id.source e.id.ref round]).setUnit p (claimed k e (s.unit p)))).setPort p
        { (runAdmission p ((s.send [.claim p e.id.source e.id.ref round]).setUnit p (claimed k e (s.unit p)))).port p with
          running := some e.id }, none) := rfl
  rw [hto, hrun, ← State.send_send]
  rfl

/-- A command whose answer waits: the frame is in progress, and nothing is handed on. -/
theorem exec_awaits {c : Instr} {p : Port} {a : Access} {body : Body} {s u : State}
    (hx : exec c s = frameStep c p a body s) (h : frameReady p s = true) (hc : portCheck a (s.port p).pstate = none)
    (hb : body (beginFrame c p s) = (u, none)) (hu : (u.port p).held = []) : exec c s = .next (judgeAttn u) := by
  have hrun : runCommand c p a body (beginFrame c p s) = u := by
    rw [runCommand, beginFrame_pstate, hc, hb]
  rw [hx, frameStep, takeCommand_ready h, hrun, handNext_nothing hu]

/-- Settles O44, by what is visible and whether a service slot is FREE. -/
theorem takeHandsOver : Obligations.TakeHandsOver := by
  unfold Obligations.TakeHandsOver
  constructor
  · intro p s h ha d
    have hc := portCheck_session ha
    refine ⟨fun n rest hn => ?_, fun hv => ?_, fun e hv hk => ?_, ?_⟩
    · exact exec_setsUnit rfl h hc (takeBody_notice (s := beginFrame _ p s) hn)
    · exact exec_answers rfl h hc (takeBody_empty (s := beginFrame _ p s) hv)
    · exact exec_answers rfl h hc (takeBody_full (s := beginFrame _ p s) hv hk)
    · intro e k form hv hk hlow hkind n d'
      have hbody : takeBody p (beginFrame (.take p) p s) = takeDelivery p k form e (beginFrame (.take p) p s) := by
        rw [takeBody_entry (s := beginFrame _ p s) hv hk hlow]
        rcases hkind with ⟨hk, rfl⟩ | ⟨hk, rfl⟩ | ⟨hk, rfl⟩ <;> rw [hk]
      exact exec_writesUnit rfl h hc (hbody.trans (takeDelivery_eq p k form e _))
  · intro p e round k s h ha hv hkind hk hlow d d'
    obtain ⟨-, -, -, -, -, hheld, -⟩ := (frameReady_iff p s).1 h
    have hbody : takeBody p (beginFrame (.take p) p s) = takeOffer p k round e (beginFrame (.take p) p s) := by
      rw [takeBody_entry (s := beginFrame _ p s) hv hk hlow, hkind]
    refine ⟨_, exec_awaits rfl h (portCheck_session ha) (hbody.trans (takeOffer_eq p k round e _)) ?_, ?_, fun q hq => ?_,
      ?_, ?_, fun q hq => ?_, judgeAttn_attnLaw _, ?_⟩
    · rw [State.setPort_port_same, beginFrame_port]
      exact hheld
    · simp only [judgeAttn_unit, State.setPort_unit, State.send_unit, State.setUnit_unit_same]
      rfl
    · simp [State.setUnit_unit_ne, hq]
    · rw [judgeAttn_inFlight]
      rfl
    · rw [judgeAttn_port, State.setPort_port_same, beginFrame_port]
      rfl
    · simp [State.setPort_port_ne, hq, beginFrame_port_ne]
    · simp [sameBut_iff, beginFrame]

end Sys2Proof.Machine
end

section
/-! PROOFS. The checks of the source commands and of the steering commands; ADOPT, RELEASE, LOCK and WRITE_ROUTE; RUN, STOP,
SET_WINDOW and SEIZE. -/

namespace Sys2Proof.Machine

/-- A command whose body writes one source record. -/
theorem exec_setsSource {c : Instr} {p : Port} {a : Access} {body : Body} {s : State} {ans : Answer} {i : SourceId}
    {r : Source} (hx : exec c s = frameStep c p a body s) (h : frameReady p s = true)
    (hc : portCheck a (s.port p).pstate = none) (hb : body (beginFrame c p s) = ((beginFrame c p s).setSrc i r, some ans)) :
    ∃ t, exec c s = .next t ∧ t.src i = r ∧ otherSources i s t ∧ repliedWith c p ans [.sources] s t := by
  obtain ⟨ht, hr⟩ := exec_does _ [.sources] hx h hc hb rfl (by simp [sameBut_iff])
  exact ⟨_, ht, by simp, fun j hj => by simp [State.setSrc_src_ne, hj], hr⟩

/-- A command whose body writes one source record and sends messages. -/
theorem exec_writesSource {c : Instr} {p : Port} {a : Access} {body : Body} {s : State} {ans : Answer} {i : SourceId}
    {r : Source} {sent : List Instr} (hx : exec c s = frameStep c p a body s) (h : frameReady p s = true)
    (hc : portCheck a (s.port p).pstate = none)
    (hb : body (beginFrame c p s) = (((beginFrame c p s).setSrc i r).send sent, some ans)) :
    ∃ t, exec c s = .next t ∧ t.src i = r ∧ otherSources i s t ∧ t.inFlight = s.inFlight ++ sent ∧
      repliedWith c p ans [.sources, .messages] s t := by
  obtain ⟨ht, hr⟩ := exec_does _ [.sources, .messages] hx h hc hb rfl (by simp [sameBut_iff])
  exact ⟨_, ht, by simp, fun j hj => by simp [State.setSrc_src_ne, hj], by simp, hr⟩

/-! ### The checks of the source commands (R140, R151) -/

theorem unlockedSource_badArg {s : State} {b : Byte} (h : 48 ≤ b.toNat) : unlockedSource s b = .error .badArg := by
  rw [unlockedSource, sourceOf_none h]

theorem unlockedSource_locked {s : State} {b : Byte} {i : SourceId} (hi : sourceOf b = some i)
    (hl : (s.src i).lock = true) : unlockedSource s b = .error .locked := by
  rw [unlockedSource, hi]
  exact if_pos hl

theorem ownedSource_error {s : State} {p : Port} {b : Byte} {st : Status} (h : unlockedSource s b = .error st) :
    ownedSource s p b = .error st := by
  rw [ownedSource, h]

theorem ownedSource_notOwner {s : State} {p : Port} {b : Byte} {i : SourceId} (hi : sourceOf b = some i)
    (hl : (s.src i).lock = false) (ho : (s.src i).owner ≠ some p) : ownedSource s p b = .error .notOwner := by
  rw [ownedSource, unlockedSource_ok hi hl]
  exact if_neg ho

/-- The commands of a source's owner are refused with the status of the first check that fails. -/
theorem ownerCommand_refused {p : Port} {b : Byte} {block : RouteBlock} {st : Status} {s : State} (h : frameReady p s = true)
    (ha : (s.port p).pstate = .attached) (ho : ownedSource s p b = .error st) :
    ∀ c ∈ [Instr.writeRoute p b block, .enable p b, .disable p b, .release p b, .lock p b], refusedWith c p st s := by
  have hc := portCheck_session ha
  have hbegun (c : Instr) : ownedSource (beginFrame c p s) p b = .error st := ho
  simp only [List.forall_mem_cons]
  refine ⟨exec_refuses rfl h hc ?_, exec_refuses rfl h hc ?_, exec_refuses rfl h hc ?_, exec_refuses rfl h hc ?_,
    exec_refuses rfl h hc ?_, nofun⟩
  · rw [writeRouteBody, hbegun]
  · rw [enableBody, hbegun]
  · rw [disableBody, hbegun]
  · rw [releaseBody, hbegun]
  · rw [lockBody, hbegun]

/-- The commands that name a source are refused with the status of the first of R140's steps 2 and 3 that fails. -/
theorem sourceCommand_refused {p : Port} {b : Byte} {block : RouteBlock} {st : Status} {s : State} (h : frameReady p s = true)
    (ha : (s.port p).pstate = .attached) (hu : unlockedSource s b = .error st) :
    ∀ c ∈ [Instr.writeRoute p b block, .enable p b, .disable p b, .adopt p b, .release p b, .lock p b],
      refusedWith c p st s := by
  have howner := ownerCommand_refused (block := block) h ha (ownedSource_error (p := p) hu)
  have hadopt : refusedWith (.adopt p b) p st s := by
    refine exec_refuses rfl h (portCheck_session ha) ?_
    rw [adoptBody, show unlockedSource (beginFrame (.adopt p b) p s) b = .error st from hu]
  simp only [List.forall_mem_cons] at howner ⊢
  obtain ⟨hwrite, henable, hdisable, hrelease, hlock, hnil⟩ := howner
  exact ⟨hwrite, henable, hdisable, hadopt, hrelease, hlock, hnil⟩

theorem adoptBody_unlocked {p : Port} {b : Byte} {i : SourceId} {s : State} (hi : sourceOf b = some i)
    (hl : (s.src i).lock = false) :
    adoptBody p b s = match (s.src i).owner with
      | none => accept (s.setSrc i { s.src i with owner := some p })
      | some o => if o = p then accept s else refuse (.adopt p b) .owned s := by
  rw [adoptBody, unlockedSource_ok hi hl] <;> rfl

theorem adoptBody_own {p : Port} {b : Byte} {i : SourceId} {s : State} (hi : sourceOf b = some i)
    (hl : (s.src i).lock = false) (ho : (s.src i).owner = none ∨ (s.src i).owner = some p) :
    adoptBody p b s = accept (s.setSrc i { s.src i with owner := some p }) := by
  rw [adoptBody_unlocked hi hl]
  rcases ho with ho | ho <;> rw [ho]
  have hself : s.setSrc i { s.src i with owner := some p } = s := by
    rw [← ho]
    exact State.setSrc_self s i
  rw [hself]
  exact if_pos rfl

/-- Settles O48, check by check and command by command. -/
theorem sourceCommandChecks : Obligations.SourceCommandChecks := by
  unfold Obligations.SourceCommandChecks
  constructor
  · refine fun p b block s h ha => ⟨fun hb => sourceCommand_refused h ha (unlockedSource_badArg hb), fun i hi =>
      ⟨fun hl => sourceCommand_refused h ha (unlockedSource_locked hi hl), fun hl ho =>
        ⟨ownerCommand_refused h ha (ownedSource_notOwner hi hl ho), fun hne => ?_⟩⟩⟩
    refine exec_refuses rfl h (portCheck_session ha) ?_
    rw [adoptBody_unlocked (s := beginFrame _ p s) hi hl, beginFrame_src]
    cases hs : (s.src i).owner with
    | none => exact absurd hs hne
    | some o => exact if_neg fun e => ho (hs.trans (congrArg some e))
  · intro p b i s h ha hi hl does
    have hc := portCheck_session ha
    refine ⟨fun ho => exec_setsSource rfl h hc (adoptBody_own (s := beginFrame _ p s) hi hl ho), fun ho =>
      ⟨exec_setsSource rfl h hc ?_, exec_setsSource rfl h hc ?_⟩⟩
    · rw [releaseBody, ownedSource_ok (s := beginFrame _ p s) hi hl ho]
      rfl
    · rw [lockBody, ownedSource_ok (s := beginFrame _ p s) hi hl ho]
      rfl

/-! ### Route blocks (R142, R183) -/

/-- A field that is read exactly when a condition on its byte holds, and whose code is then that byte. -/
theorem field_read {α β : Type} {read : Option α} {code : α → β} {P : Prop} [Decidable P] {b : β}
    (h : read.map code = if P then some b else none) : (P → ∃ x, read = some x ∧ code x = b) ∧ (¬ P → read = none) := by
  refine ⟨fun hP => ?_, fun hP => ?_⟩
  · rw [if_pos hP] at h
    exact Option.map_eq_some_iff.1 h
  · rw [if_neg hP] at h
    exact Option.map_eq_none_iff.1 h

theorem modeOf_read : ∀ b : Byte,
    (modeOf b).map modeCode = if 1 ≤ b.toNat ∧ b.toNat ≤ 3 then some b else none := by decide

theorem setOf_read : ∀ b : Byte, (setOf b).map (·.zeroExtend 8) = if b.toNat ≤ 15 then some b else none := by decide

theorem optPortOf_read : ∀ b : Byte,
    (optPortOf b).map portByte = if b.toNat ≤ 3 ∨ b.toNat = 63 then some b else none := by decide

theorem priorityOf_read : ∀ b : Byte,
    (priorityOf b).map (fun q => BitVec.ofNat 8 q.val) = if b.toNat ≤ 7 then some b else none := by decide

theorem triggerOf_read : ∀ b : Byte, (triggerOf b).map triggerCode = if b.toNat ≤ 4 then some b else none := by decide

/-- Bytes 4 and 5 that read back a source's kind fields. -/
def kindBytes : KindFields → Byte × Byte
  | .line g k => (triggerCode g, BitVec.ofNat 8 k.val)
  | .soft d S => (BitVec.ofNat 8 d, S.zeroExtend 8)

theorem lineFieldsOf_read (a b : Byte) : (lineFieldsOf a b).map kindBytes =
    if a.toNat ≤ 4 ∧ b.toNat ≤ 15 then some (a, b) else none := by
  have htrigger := field_read (triggerOf_read a)
  by_cases ha : a.toNat ≤ 4
  · obtain ⟨g, hg, hcode⟩ := htrigger.1 ha
    by_cases hb : b.toNat < 16
    · rw [lineFieldsOf, hg, if_pos ⟨ha, by omega⟩]
      simp only [hb, dif_pos, Option.map_some, kindBytes, hcode, BitVec.ofNat_toNat, BitVec.setWidth_eq]
    · rw [lineFieldsOf, hg, if_neg fun h => hb (by omega)]
      simp only [hb, dite_false, Option.map_none]
  · rw [lineFieldsOf, htrigger.2 ha, if_neg fun h => ha h.1]
    rfl

theorem softFieldsOf_read (a b : Byte) : (softFieldsOf a b).map kindBytes =
    if (1 ≤ a.toNat ∧ a.toNat ≤ 8) ∧ b.toNat ≤ 15 then some (a, b) else none := by
  have hset := field_read (setOf_read b)
  by_cases hb : b.toNat ≤ 15
  · obtain ⟨S, hS, hcode⟩ := hset.1 hb
    by_cases ha : 1 ≤ a.toNat ∧ a.toNat ≤ 8
    · rw [softFieldsOf, hS, if_pos ⟨ha, hb⟩]
      simp only [ha, and_self, if_true, Option.map_some, kindBytes, hcode, BitVec.ofNat_toNat, BitVec.setWidth_eq]
    · rw [softFieldsOf, hS, if_neg fun h => ha h.1]
      simp only [ha, if_false, Option.map_none]
  · rw [softFieldsOf, hset.2 hb, if_neg fun h => hb h.2]
    rfl

/-- Bytes 4 and 5, in the fields of the source's kind. -/
theorem kindFieldsOf_read (i : SourceId) (a b : Byte) :
    (if isSoft i then softFieldsOf a b else lineFieldsOf a b).map kindBytes =
      if (if i.val < 32 then a.toNat ≤ 4 else 1 ≤ a.toNat ∧ a.toNat ≤ 8) ∧ b.toNat ≤ 15 then some (a, b) else none := by
  by_cases hi : i.val < 32
  · have hsoft : isSoft i = false := decide_eq_false (by omega)
    simp only [hsoft, hi, if_true, Bool.false_eq_true, if_false, lineFieldsOf_read]
  · have hsoft : isSoft i = true := decide_eq_true (by omega)
    simp only [hsoft, hi, if_true, if_false, softFieldsOf_read]

/-- R142's condition on a DIRECT block, read off the bytes of its targets and its fallback. -/
theorem oneTarget_iff : ∀ (S : PortSet) (f : Option Port),
    ((portsOf S).length == 1 && (match f with | some q => !portIn q S | none => true)) = true ↔
      ∃ q : Port, (S.zeroExtend 8 : Byte).toNat = 2 ^ q.val ∧ (portByte f).toNat ≠ q.val := by decide

theorem modeCode_direct : ∀ m : Mode, (modeCode m).toNat = 1 ↔ m = .direct := by
  intro m
  cases m <;> decide

theorem jointlyValid_iff (r : Routing) : jointlyValid r = true ↔
    ((modeCode r.mode).toNat = 1 →
      ∃ q : Port, (r.targets.zeroExtend 8 : Byte).toNat = 2 ^ q.val ∧ (portByte r.fallback).toNat ≠ q.val) := by
  rw [modeCode_direct, ← oneTarget_iff, jointlyValid]
  cases r.mode with
  | direct => exact ⟨fun h _ => h, fun h => h rfl⟩
  | shared | broadcast => exact ⟨fun _ h => (nomatch h), fun _ => rfl⟩

/-- The bytes that read a routing back. -/
def routingBytes (r : Routing) : List Byte :=
  [modeCode r.mode, r.targets.zeroExtend 8, portByte r.fallback, BitVec.ofNat 8 r.priority.val, (kindBytes r.kind).1,
    (kindBytes r.kind).2]

theorem routingOf_fields {i : SourceId} {b : RouteBlock} {mode : Mode} {targets : PortSet} {fallback : Option Port}
    {priority : Priority} {kind : KindFields} (hm : modeOf b.mode = some mode) (ht : setOf b.targets = some targets)
    (hf : optPortOf b.fallback = some fallback) (hp : priorityOf b.priority = some priority)
    (hk : (if isSoft i then softFieldsOf b.kindA b.kindB else lineFieldsOf b.kindA b.kindB) = some kind) :
    routingOf i b = if jointlyValid { mode, targets, fallback, priority, kind } then
      some { mode, targets, fallback, priority, kind } else none := by
  simp only [routingOf, hm, ht, hf, hp, hk]

theorem routingOf_unread {i : SourceId} {b : RouteBlock}
    (h : modeOf b.mode = none ∨ setOf b.targets = none ∨ optPortOf b.fallback = none ∨ priorityOf b.priority = none ∨
      (if isSoft i then softFieldsOf b.kindA b.kindB else lineFieldsOf b.kindA b.kindB) = none) : routingOf i b = none := by
  rw [routingOf]
  split
  · next hm ht hf hp hk => simp [hm, ht, hf, hp, hk] at h
  · rfl

/-- A route block is accepted exactly when it is valid, and the routing it gives reads it back. -/
theorem routingOf_spec (i : SourceId) (b : RouteBlock) :
    (validBlock i b → ∃ r, routingOf i b = some r ∧
      routingBytes r = [b.mode, b.targets, b.fallback, b.priority, b.kindA, b.kindB]) ∧
    (¬ validBlock i b → routingOf i b = none) := by
  have hmode := field_read (modeOf_read b.mode)
  have htargets := field_read (setOf_read b.targets)
  have hfallback := field_read (optPortOf_read b.fallback)
  have hpriority := field_read (priorityOf_read b.priority)
  have hkind := field_read (kindFieldsOf_read i b.kindA b.kindB)
  by_cases hm : 1 ≤ b.mode.toNat ∧ b.mode.toNat ≤ 3
  swap
  · exact ⟨fun hv => absurd hv.1 hm, fun _ => routingOf_unread (.inl (hmode.2 hm))⟩
  by_cases ht : b.targets.toNat ≤ 15
  swap
  · exact ⟨fun ⟨_, hv, _⟩ => absurd hv ht, fun _ => routingOf_unread (.inr (.inl (htargets.2 ht)))⟩
  by_cases hf : b.fallback.toNat ≤ 3 ∨ b.fallback.toNat = 63
  swap
  · exact ⟨fun ⟨_, _, hv, _⟩ => absurd hv hf, fun _ => routingOf_unread (.inr (.inr (.inl (hfallback.2 hf))))⟩
  by_cases hp : b.priority.toNat ≤ 7
  swap
  · exact ⟨fun ⟨_, _, _, hv, _⟩ => absurd hv hp, fun _ => routingOf_unread (.inr (.inr (.inr (.inl (hpriority.2 hp)))))⟩
  by_cases hk : (if i.val < 32 then b.kindA.toNat ≤ 4 else 1 ≤ b.kindA.toNat ∧ b.kindA.toNat ≤ 8) ∧ b.kindB.toNat ≤ 15
  swap
  · exact ⟨fun ⟨_, _, _, _, ha, hb, _⟩ => absurd ⟨ha, hb⟩ hk,
      fun _ => routingOf_unread (.inr (.inr (.inr (.inr (hkind.2 hk)))))⟩
  obtain ⟨mode, hmode, hmodeCode⟩ := hmode.1 hm
  obtain ⟨targets, htargets, htargetsCode⟩ := htargets.1 ht
  obtain ⟨fallback, hfallback, hfallbackCode⟩ := hfallback.1 hf
  obtain ⟨priority, hpriority, hpriorityCode⟩ := hpriority.1 hp
  obtain ⟨kind, hkind, hkindCode⟩ := hkind.1 hk
  have hjoint := jointlyValid_iff { mode, targets, fallback, priority, kind }
  rw [hmodeCode, htargetsCode, hfallbackCode] at hjoint
  rw [routingOf_fields hmode htargets hfallback hpriority hkind]
  refine ⟨fun ⟨_, _, _, _, _, _, hj⟩ => ⟨_, if_pos (hjoint.2 hj), ?_⟩, fun hv =>
    if_neg fun hj => hv ⟨hm, ht, hf, hp, hk.1, hk.2, hjoint.1 hj⟩⟩
  rw [routingBytes, hmodeCode, htargetsCode, hfallbackCode, hpriorityCode, hkindCode]

theorem writeRouteBody_off {p : Port} {b : Byte} {i : SourceId} {block : RouteBlock} {s : State} (hi : sourceOf b = some i)
    (hl : (s.src i).lock = false) (ho : (s.src i).owner = some p) (hoff : (s.src i).state = .off) :
    writeRouteBody p b block s = match routingOf i block with
      | none => refuse (.writeRoute p b block) .badArg s
      | some routing => accept (s.setSrc i { s.src i with routing := routing }) := by
  rw [writeRouteBody, ownedSource_ok hi hl ho]
  exact if_pos hoff

/-- Settles O49, by the source's state and the validity of the block. -/
theorem routingWritten : Obligations.RoutingWritten := by
  unfold Obligations.RoutingWritten
  intro p b i block s c h ha hi hl ho
  have hc := portCheck_session ha
  refine ⟨fun hon => exec_refuses rfl h hc ?_, fun hoff => ⟨fun hv => ?_, fun hv => exec_refuses rfl h hc ?_⟩⟩
  · rw [writeRouteBody, ownedSource_ok (s := beginFrame c p s) hi hl ho]
    exact if_neg hon
  · obtain ⟨r, hr, hbytes⟩ := (routingOf_spec i block).1 hv
    obtain ⟨t, ht, hsrc, hothers, hreplied⟩ := exec_setsSource (c := c) (ans := okAnswer) (i := i)
      (r := { s.src i with routing := r }) rfl h hc (by
        rw [writeRouteBody_off (s := beginFrame c p s) hi hl ho hoff, hr]
        rfl)
    refine ⟨t, r, ht, hsrc, hsrc ▸ routingOf_kindLaw hr, ?_, hothers, hreplied⟩
    rw [← hbytes, routingBytes]
    cases r.kind <;> rfl
  · rw [writeRouteBody_off (s := beginFrame c p s) hi hl ho hoff, (routingOf_spec i block).2 hv]

/-! ### Steering (R157 to R163) -/

/-- Settles O51, by the steering check and command by command. -/
theorem runControl : Obligations.RunControl := by
  unfold Obligations.RunControl
  intro p s h ha
  have hc := portCheck_session ha
  refine ⟨fun hs x y => ?_, fun hs => ⟨?_, ?_, fun ms hms => ?_, exec_refuses rfl h hc ?_⟩⟩
  · have hr {c : Instr} {body : Body} (hx : exec c s = frameStep c p .session (steered c p body) s) :
        refusedWith c p .notSteering s := exec_refuses hx h hc (steered_refused (s := beginFrame c p s) hs)
    simp only [List.forall_mem_cons]
    exact ⟨hr rfl, hr rfl, hr rfl, hr rfl, hr rfl, hr rfl, nofun⟩
  · obtain ⟨ht, hr⟩ := exec_does (c := .run p) _ [.control, .messages] rfl h hc (steered_ok (s := beginFrame _ p s) hs) rfl
      (by simp [sameBut_iff])
    exact ⟨_, ht, rfl, rfl, rfl, rfl, rfl, hr⟩
  · obtain ⟨ht, hr⟩ := exec_does (c := .stop p) _ [.control] rfl h hc (steered_ok (s := beginFrame _ p s) hs) rfl
      (by simp [sameBut_iff])
    exact ⟨_, ht, rfl, rfl, rfl, rfl, hr⟩
  · obtain ⟨ht, hr⟩ := exec_does (c := .setWindow p ms) _ [.control] rfl h hc
      ((steered_ok (s := beginFrame _ p s) hs).trans (if_neg hms)) rfl (by simp [sameBut_iff])
    exact ⟨_, ht, rfl, rfl, rfl, rfl, hr⟩
  · exact (steered_ok (s := beginFrame _ p s) hs).trans (if_pos rfl)

/-! ### SEIZE (R148, R162) -/

theorem seizeBody_unlocked {p : Port} {b x : Byte} {i : SourceId} {s : State} (hs : s.steering = some p)
    (hi : sourceOf b = some i) (hl : (s.src i).lock = false) :
    seizeBody p b x s = match seizePortOf x with
      | none => refuse (.seize p b x) .badArg s
      | some o => accept (seizeSource i o s) := by
  rw [seizeBody, steered_ok hs, unlockedSource_ok hi hl] <;> rfl

theorem seizeBody_refused {p : Port} {b x : Byte} {st : Status} {s : State} (hs : s.steering = some p)
    (hu : unlockedSource s b = .error st) : seizeBody p b x s = refuse (.seize p b x) st s := by
  rw [seizeBody, steered_ok hs, hu]

theorem seizeSource_same {i : SourceId} {o : Option Port} {s : State} (h : (s.src i).owner = o) : seizeSource i o s = s :=
  if_pos h

theorem seizeSource_other {i : SourceId} {o : Option Port} {s : State} (h : (s.src i).owner ≠ o) :
    seizeSource i o s = (s.setSrc i { s.src i with owner := o }).send
      (match (s.src i).owner with | some f => [.noticePosting f .seized (.source i)] | none => []) := by
  simp only [seizeSource, h, if_false]
  cases (s.src i).owner with
  | none => rw [State.send_nil]
  | some f => rfl

theorem seizePortOf_ofNat : ∀ q : Port, seizePortOf (BitVec.ofNat 8 q.val) = some (some q) := by decide

/-- Settles O53, by the checks and by the present owner. -/
theorem seizeSetsOwner : Obligations.SeizeSetsOwner := by
  unfold Obligations.SeizeSetsOwner
  refine ⟨fun p b x s h ha hs hb => ?_, ?_, rfl, seizePortOf_ofNat, fun y hy hne => ?_⟩
  · exact exec_refuses rfl h (portCheck_session ha) (seizeBody_refused (s := beginFrame _ p s) hs (unlockedSource_badArg hb))
  · intro p b x i s c h ha hs hi
    have hc := portCheck_session ha
    refine ⟨fun hl => ?_, fun hl => ⟨fun hx => exec_refuses rfl h hc ?_, fun o hx hne => ?_, fun o hx heq => ?_⟩⟩
    · exact exec_refuses rfl h hc (seizeBody_refused (s := beginFrame c p s) hs
        (unlockedSource_locked (s := beginFrame c p s) hi hl))
    · rw [seizeBody_unlocked (s := beginFrame c p s) hs hi hl, hx]
    · refine exec_writesSource rfl h hc ?_
      rw [seizeBody_unlocked (s := beginFrame c p s) hs hi hl, hx]
      simp only [accept, seizeSource_other (s := beginFrame c p s) hne]
      rfl
    · refine exec_answers rfl h hc ?_
      rw [seizeBody_unlocked (s := beginFrame c p s) hs hi hl, hx]
      simp only [accept, seizeSource_same (s := beginFrame c p s) heq]
      rfl
  · rw [seizePortOf, portOf_none hy]
    exact if_neg hne

end Sys2Proof.Machine
end

section
/-! PROOFS. The commands that move cells of the Payload Pool: RAISE, ENABLE and DISABLE, TABLE_RESET. -/

namespace Sys2Proof.Machine

/-- A command whose body writes one source record and the number of free cells, and sends messages. -/
theorem exec_writesCells {c : Instr} {p : Port} {a : Access} {body : Body} {s : State} {ans : Answer} {i : SourceId}
    {r : Source} {n : Nat} {sent : List Instr} (hx : exec c s = frameStep c p a body s) (h : frameReady p s = true)
    (hc : portCheck a (s.port p).pstate = none)
    (hb : body (beginFrame c p s) = ((({ beginFrame c p s with poolFree := n } : State).setSrc i r).send sent, some ans)) :
    ∃ t, exec c s = .next t ∧ t.src i = r ∧ t.poolFree = n ∧ otherSources i s t ∧ t.inFlight = s.inFlight ++ sent ∧
      repliedWith c p ans [.sources, .pool, .messages] s t := by
  obtain ⟨ht, hr⟩ := exec_does _ [.sources, .pool, .messages] hx h hc hb rfl (by simp [sameBut_iff])
  refine ⟨_, ht, ?_, rfl, fun j hj => ?_, rfl, hr⟩
  · rw [judgeAttn_src, State.setPort_src, State.send_src, State.setSrc_src_same]
  · rw [judgeAttn_src, State.setPort_src, State.send_src, State.setSrc_src_ne _ _ _ _ hj]
    rfl

/-- A command whose body writes one source record and the number of free cells. -/
theorem exec_setsCells {c : Instr} {p : Port} {a : Access} {body : Body} {s : State} {ans : Answer} {i : SourceId}
    {r : Source} {n : Nat} (hx : exec c s = frameStep c p a body s) (h : frameReady p s = true)
    (hc : portCheck a (s.port p).pstate = none)
    (hb : body (beginFrame c p s) = (({ beginFrame c p s with poolFree := n } : State).setSrc i r, some ans)) :
    ∃ t, exec c s = .next t ∧ t.src i = r ∧ repliedWith c p ans [.sources, .pool] s t := by
  obtain ⟨ht, hr⟩ := exec_does _ [.sources, .pool] hx h hc hb rfl (by simp [sameBut_iff])
  exact ⟨_, ht, by rw [judgeAttn_src, State.setPort_src, State.setSrc_src_same], hr⟩

/-! ### The checks of RAISE (R45) -/

theorem raiseBody_refused {p : Port} {b : Byte} {word : Word} {st : Status} {s : State} (h : raiseCheck s p b = .error st) :
    raiseBody p b word s = refuse (.raiseWord p b word) st s := by
  rw [raiseBody, h]

/-- A RAISE whose checks fail is refused with the status of the first that does. -/
theorem exec_raise_refused {p : Port} {b : Byte} {word : Word} {st : Status} {s : State} (h : frameReady p s = true)
    (ha : (s.port p).pstate = .attached) (hr : raiseCheck s p b = .error st) :
    refusedWith (.raiseWord p b word) p st s :=
  exec_refuses rfl h (portCheck_session ha) (raiseBody_refused (s := beginFrame _ p s) hr)

theorem raiseCheck_line {s : State} {p : Port} {b : Byte} (hl : ∀ i, kindLaw i (s.src i))
    (hb : b.toNat < 32 ∨ 48 ≤ b.toNat) : raiseCheck s p b = .error .badArg := by
  rw [raiseCheck]
  cases hi : sourceOf b with
  | none => rfl
  | some i =>
    have hval : i.val < 32 := by
      rw [sourceOf] at hi
      split at hi <;> cases hi
      exact hb.resolve_right (by omega)
    have hkind := hl i
    simp only [kindLaw] at hkind
    cases hk : (s.src i).routing.kind with
    | line => simp only [hk]
    | soft depth raisers =>
      rw [hk] at hkind
      exact absurd hkind.1 (by omega)

theorem raiseCheck_soft {s : State} {p : Port} {b : Byte} {i : SourceId} {depth : Nat} {raisers : PortSet}
    (hi : sourceOf b = some i) (hk : (s.src i).routing.kind = .soft depth raisers) : raiseCheck s p b =
      if !portIn p raisers then .error .notRaiser
      else if (s.src i).state = .off ∨ (s.src i).state = .draining then .error .disabled
      else if depth ≤ (s.src i).words.length then .error .full
      else if s.poolFree = 0 then .error .poolEmpty
      else .ok i := by
  simp only [raiseCheck, hi, hk]

/-- The clauses of R45 that refuse a RAISE, in their order. -/
theorem raise_refused {p : Port} {b : Byte} {word : Word} {i : SourceId} {depth : Nat} {raisers : PortSet} {s : State}
    (h : frameReady p s = true) (ha : (s.port p).pstate = .attached) (hi : sourceOf b = some i)
    (hk : (s.src i).routing.kind = .soft depth raisers) :
    (portIn p raisers = false → refusedWith (.raiseWord p b word) p .notRaiser s) ∧
    (portIn p raisers = true →
      ((s.src i).state = .off ∨ (s.src i).state = .draining → refusedWith (.raiseWord p b word) p .disabled s) ∧
      ((s.src i).state ≠ .off → (s.src i).state ≠ .draining →
        (depth ≤ (s.src i).words.length → refusedWith (.raiseWord p b word) p .full s) ∧
        ((s.src i).words.length < depth → s.poolFree = 0 → refusedWith (.raiseWord p b word) p .poolEmpty s))) := by
  have hcheck := raiseCheck_soft (p := p) hi hk
  refine ⟨fun hp => ?_, fun hp => ⟨fun hs => ?_, fun hoff hdrain => ⟨fun hd => ?_, fun hd h0 => ?_⟩⟩⟩ <;>
    refine exec_raise_refused h ha (hcheck.trans ?_)
  · simp [hp]
  · simp [hp, hs]
  · simp [hp, hoff, hdrain, hd]
  · simp [hp, hoff, hdrain, Nat.not_le.2 hd, h0]

/-! ### The word that RAISE appends (R9, R46, R48) -/

/-- The record of a soft source with a word appended to its list. -/
def raised (w : PoolWord) (r : Source) : Source := { r with words := r.words ++ [w] }

theorem setWords_raised (i : SourceId) (w : PoolWord) (s : State) :
    setWords i ((s.src i).words ++ [w]) s =
      ({ s with poolFree := s.poolFree - 1 } : State).setSrc i (raised w (s.src i)) := by
  have hcells : s.poolFree + (s.src i).words.length - ((s.src i).words ++ [w]).length = s.poolFree - 1 := by
    rw [List.length_append, List.length_singleton]
    omega
  simp only [setWords, hcells]
  rfl

theorem raiseOn_active {i : SourceId} {w : PoolWord} {s : State} (h : (s.src i).state = .active) :
    raiseOn i w s = ({ s with poolFree := s.poolFree - 1 } : State).setSrc i (raised w (s.src i)) := by
  simp only [raiseOn, setWords_raised, State.setSrc_src_same, raised, h]

/-- The attempt that follows a word in IDLE or WAITING is made on the source WAITING, with the word in its list. -/
theorem raiseOn_attempted {i : SourceId} {w : PoolWord} {s : State}
    (h : (s.src i).state = .idle ∨ (s.src i).state = .waiting) :
    raiseOn i w s = attempt i (({ s with poolFree := s.poolFree - 1 } : State).setSrc i
      { raised w (s.src i) with state := .waiting }) := by
  have hwait : waitAndAttempt i (({ s with poolFree := s.poolFree - 1 } : State).setSrc i (raised w (s.src i))) =
      attempt i (({ s with poolFree := s.poolFree - 1 } : State).setSrc i { raised w (s.src i) with state := .waiting }) := by
    rw [waitAndAttempt, State.setSrc_src_same, State.setSrc_setSrc]
  rw [← hwait]
  rcases h with h | h <;> simp only [raiseOn, setWords_raised, State.setSrc_src_same, raised, h]

theorem raiseOn_blocked {i : SourceId} {w : PoolWord} {s : State} (h : (s.src i).state = .idle ∨ (s.src i).state = .waiting)
    (hb : s.runState = .stopped ∨ (s.src i).slotRequest ≠ none) :
    raiseOn i w s = ({ s with poolFree := s.poolFree - 1 } : State).setSrc i
      { raised w (s.src i) with state := .waiting } := by
  rw [raiseOn_attempted h, attempt, if_neg]
  rintro ⟨-, hrun, hreq, -⟩
  rw [State.setSrc_src_same] at hreq
  rcases hb with hb | hb
  · exact nomatch hb.symm.trans hrun
  · exact hb hreq

/-- Whatever follows, the word is in the list, and one record has changed. -/
theorem raiseOn_record {i : SourceId} {s : State} (w : PoolWord)
    (h : (s.src i).state = .idle ∨ (s.src i).state = .waiting ∨ (s.src i).state = .active) : ∃ r sent,
    raiseOn i w s = (({ s with poolFree := s.poolFree - 1 } : State).setSrc i r).send sent ∧
      r.words = (s.src i).words ++ [w] := by
  rcases or_assoc.2 h with hw | ha
  · obtain ⟨r, sent, hattempt, hwords⟩ := attempt_record i (({ s with poolFree := s.poolFree - 1 } : State).setSrc i
      { raised w (s.src i) with state := .waiting })
    rw [State.setSrc_setSrc] at hattempt
    rw [State.setSrc_src_same] at hwords
    exact ⟨r, sent, (raiseOn_attempted hw).trans hattempt, hwords⟩
  · exact ⟨raised w (s.src i), [], (raiseOn_active ha).trans (State.send_nil _).symm, rfl⟩

/-- A frame that has begun does not change what an attempt reads of the ports. -/
theorem seen_beginFrame (c : Instr) (p : Port) (s : State) : seen (beginFrame c p s) = seen s :=
  funext fun q => by simp [seen]

/-- The attempt of a RAISE, once R10's conditions hold. -/
theorem raiseOn_forms {i : SourceId} {w : PoolWord} {s : State} {depth : Nat} {raisers : PortSet}
    (h : (s.src i).state = .idle ∨ (s.src i).state = .waiting) (hk : (s.src i).routing.kind = .soft depth raisers)
    (hrun : s.runState = .running) (hreq : (s.src i).slotRequest = none) (hb : (s.src i).batch = none) : ∃ r sent,
    raiseOn i w s = (({ s with poolFree := s.poolFree - 1 } : State).setSrc i r).send sent ∧
      attemptResult (seen s) i { raised w (s.src i) with state := .waiting } r sent := by
  let u := ({ s with poolFree := s.poolFree - 1 } : State).setSrc i { raised w (s.src i) with state := .waiting }
  have hu : u.src i = { raised w (s.src i) with state := .waiting } := State.setSrc_src_same _ _ _
  have hp : pendingCount (u.src i) ≠ 0 := by
    rw [hu]
    simp [pendingCount, raised, hk, pendingWords, hb]
  obtain ⟨sent, hon, hresult⟩ := attempt_spec (i := i) (s := u) (by rw [hu]) hrun (by rw [hu]; exact hreq) hp
    fun _ _ _ => by rw [hu]; exact hb
  refine ⟨(attempt i u).src i, sent, ?_, by rw [hu] at hresult; exact hresult⟩
  rw [raiseOn_attempted h]
  have hset := hon
  rw [onRecord, State.setSrc_setSrc] at hset
  exact hset

/-- Settles O47, by the first check that fails and, with none, by whether an attempt can be made. -/
theorem raiseCommand : Obligations.RaiseCommand := by
  unfold Obligations.RaiseCommand
  constructor
  · intro p i word depth raisers s c r h ha hk hp hs hroom hcell
    have hc := portCheck_session ha
    let w : PoolWord := { word := word, raiser := p, stamp := s.time }
    have hcheck : raiseCheck (beginFrame c p s) p (BitVec.ofNat 8 i.val) = .ok i := by
      have hstate : ¬ ((s.src i).state = .off ∨ (s.src i).state = .draining) := by
        rintro (hoff | hdrain)
        · simp [r, hoff] at hs
        · simp [r, hdrain] at hs
      have hlength : ¬ depth ≤ (s.src i).words.length := Nat.not_le.2 hroom
      rw [raiseCheck_soft (s := beginFrame c p s) (sourceOf_ofNat i) hk]
      simp only [beginFrame_src, beginFrame_poolFree, hp, hstate, hcell, hlength, Bool.not_true, Bool.false_eq_true, if_false]
    have hbody : raiseBody p (BitVec.ofNat 8 i.val) word (beginFrame c p s) = accept (raiseOn i w (beginFrame c p s)) := by
      rw [raiseBody, hcheck]
      rfl
    refine ⟨?_, fun hblocked => ?_, fun hna hrun hreq hb => ?_⟩
    · obtain ⟨r', sent, hraise, hwords⟩ := raiseOn_record (s := beginFrame c p s) w hs
      obtain ⟨t, ht, hsrc, hpool, hothers, -, hr⟩ := exec_writesCells (c := c) (ans := okAnswer) rfl h hc
        (hbody.trans (congrArg accept hraise))
      exact ⟨t, ht, hsrc ▸ hwords, hpool, hothers, hr⟩
    · refine exec_setsCells (c := c) rfl h hc (n := s.poolFree - 1) (hbody.trans (congrArg accept ?_))
      by_cases hactive : r.state = .active
      · rw [raiseOn_active (s := beginFrame c p s) hactive, if_pos hactive, ← hactive]
        rfl
      · rw [raiseOn_blocked (s := beginFrame c p s) ((or_assoc.2 hs).resolve_right hactive) (hblocked.resolve_left hactive),
          if_neg hactive]
        rfl
    · obtain ⟨r', sent, hraise, hresult⟩ := raiseOn_forms (s := beginFrame c p s) (w := w)
        ((or_assoc.2 hs).resolve_right hna) hk hrun hreq hb
      obtain ⟨t, ht, hsrc, hpool, hothers, hsent, hr⟩ := exec_writesCells (c := c) (ans := okAnswer) rfl h hc
        (hbody.trans (congrArg accept hraise))
      rw [seen_beginFrame] at hresult
      exact ⟨t, sent, ht, hsrc ▸ hresult, hsent, hothers, hpool, hr⟩
  · exact fun p b word s h ha hl => ⟨fun hb => exec_raise_refused h ha (raiseCheck_line hl hb),
      fun i depth raisers hi hk => raise_refused h ha hi hk⟩

/-! ### What ends the work of a source (R24, R26, R164) -/

theorem copyWithdrawals_eq (i : SourceId) (b : Batch) : copyWithdrawals i b = match b.form with
    | .direct => withdrawalsOf i b .direct
    | .broadcast => withdrawalsOf i b .broadcast
    | .fallback => withdrawalsOf i b .fallback
    | .shared => [] := by
  cases hf : b.form <;> simp only [copyWithdrawals, hf, placedKind] <;> rfl

theorem endOfWork_eq (i : SourceId) (r : Source) : endOfWork i r = workEnded i r := by
  rw [endOfWork, workEnded]
  cases hr : r.slotRequest <;> cases hb : r.batch with
  | none => rfl
  | some b =>
    simp only [copyWithdrawals_eq]
    cases b.offer <;> rfl

theorem resetMessages_eq (i : SourceId) (r : Source) : resetMessages i r = resetSends i r := by
  have hline : (match lineOf i with | some l => [Instr.disableReport l] | none => []) = toldLine i .disableReport := by
    unfold lineOf toldLine
    by_cases h : i.val < 32 <;> simp [h]
  rw [resetMessages, resetSends, endOfWork_eq]
  congr 1
  · congr 1
    cases r.batch <;> rfl
  · cases r.state <;> first | rfl | exact hline

/-! ### TABLE_RESET (R164, R165) -/

/-- The cells that a TABLE_RESET frees of one source. -/
def cellsFreed (s : State) (i : SourceId) : Nat := if (s.src i).lock then 0 else (s.src i).words.length

/-- What a TABLE_RESET sends of one source. -/
def tableSends (s : State) (i : SourceId) : List Instr := if (s.src i).lock then [] else resetSends i (s.src i)

/-- A round of resets over distinct sources: the cells that it frees and the messages that it sends, in its order. -/
theorem resetRound_sent (l : List SourceId) (hl : l.Nodup) (s : State) :
    (l.foldl (fun s i => if (s.src i).lock then s else resetSource i s) s).poolFree =
      s.poolFree + (l.map (cellsFreed s)).sum ∧
    (l.foldl (fun s i => if (s.src i).lock then s else resetSource i s) s).inFlight =
      s.inFlight ++ l.flatMap (tableSends s) := by
  induction l generalizing s with
  | nil => simp
  | cons a l ih =>
    obtain ⟨ha, hl⟩ := List.nodup_cons.1 hl
    rw [List.foldl_cons, List.map_cons, List.sum_cons, List.flatMap_cons, cellsFreed, tableSends]
    cases hk : (s.src a).lock with
    | true =>
      rw [if_pos rfl, if_pos rfl, if_pos rfl, Nat.zero_add, List.nil_append]
      exact ih hl s
    | false =>
      obtain ⟨hpool, hsent⟩ := ih hl (resetSource a s)
      obtain ⟨-, -, hothers⟩ := resetSource_frame a s
      have hrest (j : SourceId) (hj : j ∈ l) : (resetSource a s).src j = s.src j := hothers j fun e => ha (e ▸ hj)
      have hcells : l.map (cellsFreed (resetSource a s)) = l.map (cellsFreed s) :=
        List.map_congr_left fun j hj => by rw [cellsFreed, cellsFreed, hrest j hj]
      have hmessages : l.flatMap (tableSends (resetSource a s)) = l.flatMap (tableSends s) :=
        List.flatMap_congr fun j hj => by rw [tableSends, tableSends, hrest j hj]
      have hone := resetSource_eq a s
      rw [resetMessages_eq] at hone
      rw [if_neg Bool.false_ne_true, if_neg Bool.false_ne_true, if_neg Bool.false_ne_true, hpool, hsent, hcells, hmessages]
      refine ⟨?_, ?_⟩ <;> rw [hone]
      · exact Nat.add_assoc _ _ _
      · exact List.append_assoc _ _ _

theorem resetTable_sent (s : State) :
    (resetTable s).poolFree = s.poolFree + ((List.finRange 48).map (cellsFreed s)).sum ∧
    (resetTable s).inFlight = s.inFlight ++ (List.finRange 48).flatMap (tableSends s) := by
  rw [resetTable]
  exact resetRound_sent (List.finRange 48) (List.nodup_finRange _) s

/-- Settles O54, from what each reset leaves, frees and sends. -/
theorem tableResetClears : Obligations.TableResetClears := by
  unfold Obligations.TableResetClears
  intro p s h ha hs
  let begun := beginFrame (.tableReset p) p s
  obtain ⟨hframe, hsrc⟩ := resetTable_frame begun
  obtain ⟨hpool, hsent⟩ := resetTable_sent begun
  have hports : (resetTable begun).ports = begun.ports := hframe .ports (by simp)
  obtain ⟨ht, hr⟩ := exec_does (c := .tableReset p) ((resetTable begun).send tableNotices) [.sources, .pool, .messages] rfl h
    (portCheck_session ha) (tableResetBody_steered (s := begun) hs) (by rw [State.send_ports]; exact hports)
    (sameBut_trans hframe (l₂ := [.messages]) (by simp [sameBut_iff]) (fun _ h => h) (by simp))
  refine ⟨_, ht, fun i hl => ?_, fun i hl => ?_, ?_, ?_, hr⟩
  · rw [judgeAttn_src, State.setPort_src, State.send_src, hsrc]
    exact if_pos hl
  · rw [judgeAttn_src, State.setPort_src, State.send_src, hsrc]
    exact if_neg (Bool.eq_false_iff.1 hl)
  · rw [judgeAttn_poolFree, State.setPort_poolFree, State.send_poolFree, hpool]
    rfl
  · rw [judgeAttn_inFlight, State.setPort_inFlight, State.send_inFlight, hsent, List.append_assoc]
    rfl

/-! ### ENABLE and DISABLE (R25, R26, R52) -/

theorem enableBody_owned {p : Port} {b : Byte} {i : SourceId} {s : State} (hi : sourceOf b = some i)
    (hl : (s.src i).lock = false) (ho : (s.src i).owner = some p) : enableBody p b s = match (s.src i).state with
      | .draining => refuse (.enable p b) .busy s
      | .off =>
        if (s.src i).routing.targets = 0#4 then refuse (.enable p b) .incomplete s
        else accept ((s.setSrc i { s.src i with state := .idle, enable := true }).send (toldLine i .enableReport))
      | _ => accept s := by
  cases hs : (s.src i).state <;> simp only [enableBody, ownedSource_ok hi hl ho, hs, tellLine_eq]

theorem disableBody_owned {p : Port} {b : Byte} {i : SourceId} {s : State} (hi : sourceOf b = some i)
    (hl : (s.src i).lock = false) (ho : (s.src i).owner = some p) : disableBody p b s = accept (disableSource i s) := by
  rw [disableBody, ownedSource_ok hi hl ho]

theorem disableSource_quiet {i : SourceId} {s : State} (h : (s.src i).state = .off ∨ (s.src i).state = .draining) :
    disableSource i s = s := by
  rcases h with h | h <;> simp only [disableSource, h]

/-- The record of a source that is disabled, but for what becomes of its batch and its list (R26). -/
def cleared (r : Source) : Source :=
  { r with pending := 0, overrun := false, firstStamp := none, slotRequest := none, enable := false }

/-- A list cut to a shorter one gives its cells back. -/
theorem setWords_cut {i : SourceId} {ws : List PoolWord} {r : Source} {s : State} (sent told : List Instr)
    (h : r.words = (s.src i).words) :
    (setWords i ws ((s.send sent).setSrc i r)).send told =
      (({ s with poolFree := s.poolFree + (s.src i).words.length - ws.length } : State).setSrc i
        { r with words := ws }).send (sent ++ told) := by
  simp only [setWords, State.setSrc_src_same, State.setSrc_setSrc, h, ← State.send_send]
  rfl

/-- A DISABLE of a source that is neither OFF nor DRAINING. -/
theorem disableSource_live {i : SourceId} {s : State} (hoff : (s.src i).state ≠ .off)
    (hdrain : (s.src i).state ≠ .draining) :
    disableSource i s = (match (s.src i).batch with
      | none => setWords i [] ((s.send (workEnded i (s.src i))).setSrc i { cleared (s.src i) with state := .off })
      | some x =>
        if someCopy x (· == CopyState.inService) then
          setWords i ((s.src i).words.take 1) ((s.send (workEnded i (s.src i))).setSrc i
            { cleared (s.src i) with state := .draining, batch := some (withoutUntaken x) })
        else setWords i [] ((s.send (workEnded i (s.src i))).setSrc i
          { cleared (s.src i) with state := .off, batch := none, lastOutcome := .discarded })).send
      (toldLine i .disableReport) := by
  rw [← tellLine_eq, ← endOfWork_eq]
  cases hs : (s.src i).state with
  | off => exact absurd hs hoff
  | draining => exact absurd hs hdrain
  | idle | waiting | active => simp only [disableSource, hs] <;> rfl

/-- A DISABLE with nothing in service leaves the source OFF, its batch DISCARDED and its list freed. -/
theorem disableSource_off {i : SourceId} {s : State} (hoff : (s.src i).state ≠ .off) (hdrain : (s.src i).state ≠ .draining)
    (hb : ∀ x, (s.src i).batch = some x → ∀ q, x.copy q ≠ .inService) :
    disableSource i s = (({ s with poolFree := s.poolFree + (s.src i).words.length } : State).setSrc i
      { cleared (s.src i) with
        state := .off, words := [], batch := none
        lastOutcome := if (s.src i).batch = none then (s.src i).lastOutcome else .discarded }).send
      (workEnded i (s.src i) ++ toldLine i .disableReport) := by
  rw [disableSource_live hoff hdrain]
  split
  · next hnone =>
    refine (setWords_cut _ _ (by rfl)).trans ?_
    rw [if_pos hnone, ← hnone]
    rfl
  · next x hx =>
    have hservice : someCopy x (· == .inService) = false :=
      (someCopy_false_iff _ _).2 fun q => beq_eq_false_iff_ne.2 (hb x hx q)
    have hne : (s.src i).batch ≠ none := by rw [hx]; exact Option.some_ne_none x
    rw [hservice, if_neg Bool.false_ne_true, if_neg hne]
    exact setWords_cut _ _ (by rfl)

/-- A DISABLE with a copy in service leaves the source DRAINING, with what is in service or done and the batch's word. -/
theorem disableSource_draining {i : SourceId} {s : State} {x : Batch} (hoff : (s.src i).state ≠ .off)
    (hdrain : (s.src i).state ≠ .draining) (hx : (s.src i).batch = some x) (hin : ∃ q, x.copy q = .inService) :
    disableSource i s = (({ s with poolFree := s.poolFree + ((s.src i).words.length - 1) } : State).setSrc i
      { cleared (s.src i) with state := .draining, words := (s.src i).words.take 1, batch := some (withoutUntaken x) }).send
      (workEnded i (s.src i) ++ toldLine i .disableReport) := by
  obtain ⟨q, hq⟩ := hin
  have hservice : someCopy x (· == .inService) = true := (someCopy_iff _ _).2 ⟨q, beq_iff_eq.2 hq⟩
  have hcells : s.poolFree + (s.src i).words.length - ((s.src i).words.take 1).length =
      s.poolFree + ((s.src i).words.length - 1) := by
    rw [List.length_take]
    omega
  rw [disableSource_live hoff hdrain, ← hcells]
  split
  · next hnone => exact absurd (hx.symm.trans hnone) (Option.some_ne_none x)
  · next y hy =>
    cases Option.some.inj (hx.symm.trans hy)
    rw [if_pos hservice]
    exact setWords_cut _ _ (by rfl)

theorem withoutUntaken_copy (x : Batch) (q : Port) :
    (withoutUntaken x).copy q = if x.copy q = .inService ∨ x.copy q = .done then x.copy q else .noCopy := by
  have hcopy : (withoutUntaken x).copy q =
      if outstanding (x.copy q) && x.copy q != .inService then .noCopy else x.copy q :=
    mapCopies_copy (fun _ c => if outstanding c && c != .inService then .noCopy else c) x q
  rw [hcopy]
  cases x.copy q <;> rfl

/-- Settles O50, by the state of the source and whether a copy is in service. -/
theorem enableAndDisable : Obligations.EnableAndDisable := by
  unfold Obligations.EnableAndDisable
  intro p b i s r off h ha hi hl ho
  have hc := portCheck_session ha
  have henable := enableBody_owned (s := beginFrame (.enable p b) p s) hi hl ho
  have hdisable := disableBody_owned (s := beginFrame (.disable p b) p s) hi hl ho
  rw [beginFrame_src] at henable
  refine ⟨fun hs ht => exec_writesSource rfl h hc ?_, fun hs ht => exec_refuses rfl h hc ?_,
    fun hs => exec_refuses rfl h hc ?_, fun hs => exec_answers rfl h hc ?_, fun hs => exec_answers rfl h hc ?_,
    fun hs => ⟨fun hb => ?_, fun x hx hin => ?_⟩⟩
  · rw [henable, hs]
    exact if_neg ht
  · rw [henable, hs]
    exact if_pos ht
  · rw [henable, hs]
  · rw [henable]
    rcases hs with hs | hs | hs <;> rw [hs] <;> rfl
  · exact hdisable.trans (congrArg accept (disableSource_quiet (s := beginFrame _ p s) hs))
  all_goals
    have hoff : r.state ≠ .off := by rintro e; simp [e] at hs
    have hdrain : r.state ≠ .draining := by rintro e; simp [e] at hs
  · exact exec_writesCells rfl h hc (hdisable.trans
      (congrArg accept (disableSource_off (s := beginFrame _ p s) hoff hdrain hb)))
  · obtain ⟨t, ht, hsrc, hpool, hothers, hsent, hr⟩ := exec_writesCells (c := .disable p b) (ans := okAnswer) rfl h hc
      (hdisable.trans (congrArg accept (disableSource_draining (s := beginFrame _ p s) hoff hdrain hx hin)))
    exact ⟨t, withoutUntaken x, ht, hsrc, rfl, withoutUntaken_copy x, hpool, hothers, hsent, hr⟩

end Sys2Proof.Machine
end
